-- ==== Sys2Proof/Word.lean ====
section
/-! DEFINITION. The one word type of the CYDSim core: every register, opcode, length and operand is a byte (00_scope.md R7, R9). -/

namespace Sys2Proof

/-- An unsigned byte, 0..255; bit 0 is its least significant bit (R8). -/
abbrev Byte := BitVec 8

end Sys2Proof
end

