-- ==== Sys2Proof/Config.lean ====
section
/-! DEFINITION. The implementation parameters of 00_scope.md R7 and the free values. A parameter the spec marks OPEN is a
constant without a body: nothing can be proved about its value, so a claim holds for every value of it. -/

namespace Sys2Proof

/-- The mode of a GPIO pin, "configuration metadata" (10_state.md R34). -/
inductive PinMode where
  | input
  | output
deriving DecidableEq, Repr, Inhabited

/-- The screen cursor: two natural numbers without a fixed width (10_state.md R37). -/
structure Cursor where
  x : Nat
  y : Nat
deriving DecidableEq, Repr, Inhabited

namespace Config

/-- `NREGS` (R7). -/
abbrev nregs : Nat := 16

/-- `GPIO_PINS` (R7). -/
abbrev gpioPins : Nat := 40

/-- `FLASH_CAPACITY`, 4 MiB read as 4,194,304 bytes (R7, D2); the spec calls the literal unaudited. PRESUMED (MiB as 2^20),
log entry 9: unsafe. -/
def flashCapacity : Nat := 4194304

/-- `RAM_SIZE`, 520 KiB read as 532,480 bytes (R7, D3). PRESUMED (KiB as 2^10), log entry 9: safe, nothing reads it. -/
def ramSize : Nat := 532480

/-- `ADC_CLAMP` (R7). -/
def adcClamp : Int := 4095

/-- `ORIGIN`, OPEN (R7, D1). DESIGN CHOICE, log entry 1: safe. -/
opaque origin : Nat

/-- `CURSOR_HOME`, OPEN (R7, D13). DESIGN CHOICE, log entry 2: safe but for the spec's own reading that the load and
SCREEN_CLEAR home to the same value. -/
opaque cursorHome : Cursor

/-- `ADVANCE`, OPEN: the cursor after SCREEN_PRINT of a character at a cursor (R7, D14). DESIGN CHOICE, log entry 3. -/
opaque advance (c : Byte) (cx cy : Nat) : Cursor

/-- `GPIO_AT_LOAD` of the load that leaves State.reset, OPEN (R7, D10). DESIGN CHOICE, log entry 4: safe. Every other load
takes its own GPIO_AT_LOAD as an argument. -/
opaque gpioAtLoad : Vector Bool gpioPins

/-- `GPIO_MODE`, OPEN (R7, D11). DESIGN CHOICE, log entry 5: safe. -/
opaque gpioMode : Vector PinMode gpioPins

/-- The free value of READ_ADC: the integer the host's ADC function answers to its k-th call (45_delay_adc.md R225, D17).
DESIGN CHOICE, log entry 6: safe. -/
opaque adc (k : Nat) : Int

end Config

end Sys2Proof
end

