-- ==== Sys2Proof/Syntax.lean ====
section
/-! DEFINITION. The instructions, one constructor per row of spec/opcode_table.json (30_encoding.md R80). -/

namespace Sys2Proof

/-- An instruction as its record gives it (R70): the constructor is the opcode, `ops` are the `len` operand bytes after the
length byte, so `ops.length` is `len`. The opcode alone selects the constructor, and any `len` is legal for any of them
(R82); which bytes of `ops` have meaning is the format's (R73), and the meaning checks them (40_step_cycle.md R104, R106). -/
inductive Instr where
  /-- 0x01, `r, value` (R120) -/
  | loadImm (ops : List Byte)
  /-- 0x02, `r, pin` (R124) -/
  | storeGpio (ops : List Byte)
  /-- 0x03, `r, pin` (R127) -/
  | loadGpio (ops : List Byte)
  /-- 0x04, `addr` (R142) -/
  | jump (ops : List Byte)
  /-- 0x05, `r` (R180) -/
  | serialWrite (ops : List Byte)
  /-- 0x11, `r1, r2` (R160) -/
  | add (ops : List Byte)
  /-- 0x12, `r1, r2` (R162) -/
  | sub (ops : List Byte)
  /-- 0x13, `r1, r2` (R164) -/
  | compare (ops : List Byte)
  /-- 0x14, `addr` (R143) -/
  | jumpEq (ops : List Byte)
  /-- 0x15, `addr` (R145) -/
  | jumpNeq (ops : List Byte)
  /-- 0x16, `lo, hi` (R221) -/
  | delay (ops : List Byte)
  /-- 0x17, `r` (R226) -/
  | readAdc (ops : List Byte)
  /-- 0x18, `r` (R183) -/
  | spiWrite (ops : List Byte)
  /-- 0x19, `r` (R186) -/
  | screenPrint (ops : List Byte)
  /-- 0x1A, no required operand (R189) -/
  | screenClear (ops : List Byte)
  /-- 0x1B, `rx, ry` (R192) -/
  | drawPixel (ops : List Byte)
  /-- 0x1C, `r` (R195) -/
  | moveX (ops : List Byte)
  /-- 0x1D, `r` (R198) -/
  | moveY (ops : List Byte)
  /-- 0x1E, `addr` (R147) -/
  | jumpGt (ops : List Byte)
  /-- 0x1F, `addr` (R149) -/
  | jumpLt (ops : List Byte)
deriving DecidableEq, Repr

/-- The operand bytes of the record, `op[0]` first (R70). -/
def Instr.operands : Instr → List Byte
  | .loadImm ops => ops
  | .storeGpio ops => ops
  | .loadGpio ops => ops
  | .jump ops => ops
  | .serialWrite ops => ops
  | .add ops => ops
  | .sub ops => ops
  | .compare ops => ops
  | .jumpEq ops => ops
  | .jumpNeq ops => ops
  | .delay ops => ops
  | .readAdc ops => ops
  | .spiWrite ops => ops
  | .screenPrint ops => ops
  | .screenClear ops => ops
  | .drawPixel ops => ops
  | .moveX ops => ops
  | .moveY ops => ops
  | .jumpGt ops => ops
  | .jumpLt ops => ops

end Sys2Proof
end

