-- ==== Sys2Proof/WellFormed.lean ====
section
/-! DEFINITION. When an instruction is well formed: its record can be encoded, has its opcode's required operands, and names
registers that exist (30_encoding.md R70 to R74). An ill-formed record that fits its length byte still runs: it raises
OperandsShort or BadRegister (40_step_cycle.md R104, R106). -/

namespace Sys2Proof

/-- The six operand formats (R73). -/
inductive Format where
  | n
  | r
  | a
  | rr
  | ri
  | ii
deriving DecidableEq, Repr

/-- The required operand count of a format (R73). -/
def Format.nreq : Format → Nat
  | .n => 0
  | .r => 1
  | .a => 1
  | .rr => 2
  | .ri => 2
  | .ii => 2

/-- How many of the leading operands are register operands (R73). -/
def Format.registers : Format → Nat
  | .n => 0
  | .r => 1
  | .a => 0
  | .rr => 2
  | .ri => 1
  | .ii => 0

/-- Each opcode's format (R73, R80). -/
def Instr.format : Instr → Format
  | .loadImm _ => .ri
  | .storeGpio _ => .ri
  | .loadGpio _ => .ri
  | .jump _ => .a
  | .serialWrite _ => .r
  | .add _ => .rr
  | .sub _ => .rr
  | .compare _ => .rr
  | .jumpEq _ => .a
  | .jumpNeq _ => .a
  | .delay _ => .ii
  | .readAdc _ => .r
  | .spiWrite _ => .r
  | .screenPrint _ => .r
  | .screenClear _ => .n
  | .drawPixel _ => .rr
  | .moveX _ => .r
  | .moveY _ => .r
  | .jumpGt _ => .a
  | .jumpLt _ => .a

/-- `nreq(opcode)` (R71). -/
def Instr.nreq (i : Instr) : Nat := i.format.nreq

/-- The operand bytes in register positions, in operand order (R74). -/
def Instr.registerOperands (i : Instr) : List Byte := i.operands.take i.format.registers

/-- The number of operand bytes is a value of the length byte (R70). No decoded instruction fails this; `exec` of one that
does uses the list's length. DESIGN CHOICE, log entry 14: safe. -/
abbrev Instr.LenFits (i : Instr) : Prop := i.operands.length ≤ 255

/-- No required operand is missing (R72). -/
abbrev Instr.Enough (i : Instr) : Prop := i.nreq ≤ i.operands.length

/-- Every register operand names one of the 16 registers (R74). -/
abbrev Instr.RegistersValid (i : Instr) : Prop := ∀ r ∈ i.registerOperands, r.toNat < Config.nregs

/-- The record can be encoded and raises neither OperandsShort nor BadRegister. -/
abbrev Instr.WellFormed (i : Instr) : Prop := i.LenFits ∧ i.Enough ∧ i.RegistersValid

/-- The record's length byte is exactly `nreq` (R71). -/
abbrev Instr.Canonical (i : Instr) : Prop := i.operands.length = i.nreq

end Sys2Proof
end

