-- ==== Sys2Proof/Decode.lean ====
section
/-! DEFINITION. The decoder, total on any bytes, and the encoder (30_encoding.md). -/

namespace Sys2Proof

/-- The opcode byte of an instruction (R80). -/
def Instr.opcode : Instr → Byte
  | .loadImm _ => 0x01#8
  | .storeGpio _ => 0x02#8
  | .loadGpio _ => 0x03#8
  | .jump _ => 0x04#8
  | .serialWrite _ => 0x05#8
  | .add _ => 0x11#8
  | .sub _ => 0x12#8
  | .compare _ => 0x13#8
  | .jumpEq _ => 0x14#8
  | .jumpNeq _ => 0x15#8
  | .delay _ => 0x16#8
  | .readAdc _ => 0x17#8
  | .spiWrite _ => 0x18#8
  | .screenPrint _ => 0x19#8
  | .screenClear _ => 0x1A#8
  | .drawPixel _ => 0x1B#8
  | .moveX _ => 0x1C#8
  | .moveY _ => 0x1D#8
  | .jumpGt _ => 0x1E#8
  | .jumpLt _ => 0x1F#8

/-- The instruction an opcode byte selects, by exact match on all 8 bits (R80); the other 236 values select none (R81). -/
def selectOpcode (opc : Byte) : Option (List Byte → Instr) :=
  match opc with
  | 0x01#8 => some .loadImm
  | 0x02#8 => some .storeGpio
  | 0x03#8 => some .loadGpio
  | 0x04#8 => some .jump
  | 0x05#8 => some .serialWrite
  | 0x11#8 => some .add
  | 0x12#8 => some .sub
  | 0x13#8 => some .compare
  | 0x14#8 => some .jumpEq
  | 0x15#8 => some .jumpNeq
  | 0x16#8 => some .delay
  | 0x17#8 => some .readAdc
  | 0x18#8 => some .spiWrite
  | 0x19#8 => some .screenPrint
  | 0x1A#8 => some .screenClear
  | 0x1B#8 => some .drawPixel
  | 0x1C#8 => some .moveX
  | 0x1D#8 => some .moveY
  | 0x1E#8 => some .jumpGt
  | 0x1F#8 => some .jumpLt
  | _ => none

/-- Why bytes are no complete record. -/
inductive DecodeError where
  /-- There is no opcode byte. -/
  | noOpcode
  /-- The opcode byte is one of the 236 unassigned values (R81); nothing after it was read. -/
  | unknownOpcode (opcode : Byte)
  /-- The opcode is known, but the length byte or one of the `len` operand bytes is missing (R83). -/
  | truncated (opcode : Byte)
deriving DecidableEq, Repr

/-- The first `n` elements and the rest, where there are `n`. -/
def takeExact : Nat → List Byte → Option (List Byte × List Byte)
  | 0, bs => some ([], bs)
  | _ + 1, [] => none
  | n + 1, b :: bs => (takeExact n bs).map fun p => (b :: p.1, p.2)

/-- One record from the front of some bytes, with the bytes after it. The opcode is judged before the length byte is read,
and every operand byte must be there (R83, R84; 40_step_cycle.md R103). Whether the operands suffice is the meaning's to
check (DEDUCED, log entry 13: safe). -/
def decode : List Byte → Except DecodeError (Instr × List Byte)
  | [] => .error .noOpcode
  | opc :: rest =>
    match selectOpcode opc with
    | none => .error (.unknownOpcode opc)
    | some make =>
      match rest with
      | [] => .error (.truncated opc)
      | len :: body =>
        match takeExact len.toNat body with
        | none => .error (.truncated opc)
        | some (ops, after) => .ok (make ops, after)

/-- The record of an instruction: opcode, length byte, operands (R70). -/
def encode (i : Instr) : List Byte := i.opcode :: BitVec.ofNat 8 i.operands.length :: i.operands

/-- The longest record: opcode, length byte and 255 operand bytes (R70). -/
def longestRecord : Nat := 257

/-- The first `n` bytes of a number, its least significant byte first: the numbering of spec/opcode_table.json. -/
def bytesOfNat : Nat → Nat → List Byte
  | 0, _ => []
  | n + 1, w => BitVec.ofNat 8 w :: bytesOfNat n (w / 256)

/-- The bytes of a table word: its low `nbits` bits, then zeros up to the longest record. -/
def tableBytes (nbits w : Nat) : List Byte := bytesOfNat longestRecord (w % 2 ^ nbits)

/-- How many bytes the record of a table word has: those the table gives, and all that its length byte counts. -/
def tableLength (nbits w : Nat) : Nat := max ((nbits + 7) / 8) (2 + w % 2 ^ nbits / 256 % 256)

/-- The record of a table word. -/
def tableRecord (nbits w : Nat) : List Byte := bytesOfNat (tableLength nbits w) (w % 2 ^ nbits)

/-- What the decoder reads from an instruction whose bits are `w`. -/
def decodeTableWord (nbits w : Nat) : Option Instr :=
  match decode (tableBytes nbits w) with
  | .ok (i, _) => some i
  | .error _ => none

end Sys2Proof
end

