-- ==== Sys2Proof/Machine/State.lean ====
section
/-! DEFINITION. The state of the CYDSim core (10_state.md), the reasons a step could stop, and the state after reset. -/

namespace Sys2Proof.Machine

/-- The compare flag: -1, 0, +1, or UNSET until the first COMPARE after a load (R23). -/
inductive CompareFlag where
  | unset
  | minus
  | zero
  | plus
deriving DecidableEq, Repr

/-- The kinds of step fault (R31; 60_exceptions.md R241 to R245). -/
inductive FaultKind where
  | unknownOpcode
  | fetchUnwritten
  | operandsShort
  | badRegister
  | flagUnset
deriving DecidableEq, Repr

/-- The fault record: the kind, the opcode byte (absent where the opcode byte itself could not be read), and the offset of
the faulting instruction's opcode byte (R31). -/
structure FaultRecord where
  kind : FaultKind
  opcode : Option Byte
  pc : Nat
deriving DecidableEq, Repr

/-- The six events the Peripheral Sink receives (R36). -/
inductive Event where
  | clearScreen
  | drawGlyphOrNewline (char : Byte) (cursorX cursorY : Nat)
  | drawPixel (x y : Byte)
  | serialByte (char : Byte)
  | spiByte (char : Byte)
  | cursorMoved (x y : Nat)
deriving DecidableEq, Repr

/-- A memory: (offset, byte) pairs with strictly rising offsets; an offset not listed holds no value (R40, D4). -/
abbrev Memory := List Host.Cell

/-- Everything the spec gives the machine, and one field of the model's own (`adcDraws`). -/
structure State where
  /-- `x[0..15]` (R20) -/
  regs : Vector Byte Config.nregs
  /-- the compare flag (R23) -/
  flag : CompareFlag
  /-- the program counter, an offset from ORIGIN (R27) -/
  pc : Nat
  /-- whether steps have any effect (R30) -/
  running : Bool
  /-- the fault record (R31) -/
  fault : Option FaultRecord
  /-- pending no-op steps (R32) -/
  delay : BitVec 16
  /-- `gpio[0..39]` (R33) -/
  gpio : Vector Bool Config.gpioPins
  /-- `gpioMode[0..39]` (R34) -/
  gpioMode : Vector PinMode Config.gpioPins
  /-- the serial output buffer, oldest byte first (R35) -/
  serialBuf : List Byte
  /-- the SPI output buffer, oldest byte first (R35) -/
  spiBuf : List Byte
  /-- the events delivered to the Peripheral Sink, oldest first (R36) -/
  trace : List Event
  /-- the screen cursor (R37) -/
  cursor : Cursor
  /-- program memory (R40) -/
  flash : Memory
  /-- the length of the loaded image (R41) -/
  imageLen : Nat
  /-- working memory, which no instruction, step or load reads or writes (R42). DESIGN CHOICE, log entry 8: safe. -/
  ram : Memory
  /-- the model's own: how many ADC answers have been drawn (45_delay_adc.md R225). DESIGN CHOICE, log entry 6: safe. -/
  adcDraws : Nat
deriving DecidableEq, Repr

/-- The faults a step stops with: none. Every fault of the spec sets the fault record and clears `running`
(60_exceptions.md R240), so it is a next state, and no one raises a fault of this type (DEDUCED, log entry 11: safe). -/
inductive Fault where
deriving DecidableEq, Repr

/-- The refusals of a step. -/
inductive Refusal where
  /-- An instruction without a meaning. Raised by an arm of `exec` that has none; no arm does. Safe: nothing is proved of
  an instruction that is refused. -/
  | notModelled (mnemonic : String)
deriving DecidableEq, Repr

/-- The state after reset: a successful load of the empty image (70_reset_and_hazards.md R280, R281), every register at the
value R281 gives; the OPEN values are constants of Config (log entries 2, 4, 5), RAM and the draw counter the model's choice
(log entries 6, 8). The empty image is a DESIGN CHOICE, log entry 10 (which says how a program comes to run from here):
unsafe. -/
def State.reset : State where
  regs := Vector.replicate Config.nregs 0#8
  flag := .unset
  pc := 0
  running := true
  fault := none
  delay := 0#16
  gpio := Config.gpioAtLoad
  gpioMode := Config.gpioMode
  serialBuf := []
  spiBuf := []
  trace := []
  cursor := Config.cursorHome
  flash := []
  imageLen := 0
  ram := []
  adcDraws := 0

end Sys2Proof.Machine
end

