-- ==== Sys2Proof/Machine/Ops.lean ====
section
/-! DEFINITION. The named operations over memory, registers and peripherals, taking a fault, and the load that alone ends
one. -/

namespace Sys2Proof.Machine

/-- A register index, 0..15 (10_state.md R20). -/
abbrev Reg := Fin Config.nregs

/-- A GPIO pin, 0..39 (R33). -/
abbrev Pin := Fin Config.gpioPins

/-- A step's outcome. -/
abbrev Result := Host.Outcome State Fault Refusal

/-! ### Memory -/

/-- What an offset that is not listed reads as: no value (10_state.md R40, D4). DEDUCED, log entry 7: safe. -/
def Memory.unlisted : Option Byte := none

/-- The canonical form: offsets strictly rising. (An entry is a byte, so none equals what an unlisted offset reads as.) -/
abbrev Memory.wf (m : Memory) : Prop := m.Pairwise fun a b => a.1 < b.1

/-- The byte at an offset, if it holds one. -/
def Memory.read : Memory → Nat → Option Byte
  | [], _ => Memory.unlisted
  | (k, b) :: rest, a => if a < k then Memory.unlisted else if a = k then some b else Memory.read rest a

/-- Write one byte. Used only to place an image; no instruction writes memory (20_memory.md R57). -/
def Memory.write : Memory → Nat → Byte → Memory
  | [], a, v => [(a, v)]
  | (k, b) :: rest, a, v =>
    if a < k then (a, v) :: (k, b) :: rest
    else if a = k then (a, v) :: rest
    else (k, b) :: Memory.write rest a v

/-- Write bytes at consecutive offsets from `a`. -/
def Memory.writeBytes (m : Memory) : Nat → List Byte → Memory
  | _, [] => m
  | a, b :: bs => Memory.write (Memory.writeBytes m (a + 1) bs) a b

/-- The memory that holds exactly some bytes, at consecutive offsets from `a`. -/
def Memory.ofBytes : Nat → List Byte → Memory
  | _, [] => []
  | a, b :: bs => (a, b) :: Memory.ofBytes (a + 1) bs

/-- `MemRead(o, 1)`: no value at or past `imageLen` (20_memory.md R50). -/
def State.memRead (s : State) (o : Nat) : Option Byte :=
  if o < s.imageLen then s.flash.read o else none

/-- The absolute address of an offset (10_state.md R27). -/
def absoluteAddress (o : Nat) : Nat := Config.origin + o

/-! ### Registers and values -/

/-- A mathematical integer reduced mod 256 (Euclidean), as every register write does (10_state.md R21). -/
def wrap8 (v : Int) : Byte := BitVec.ofInt 8 v

/-- A 1-bit value as a register value (00_scope.md R10, `zext_8`). -/
def zext8 (b : Bool) : Byte := if b then 1#8 else 0#8

/-- Bit 0 of a register value (41_register_gpio.md R124). -/
def bit0 (v : Byte) : Bool := v.getLsbD 0

/-- `x[r]`. -/
def State.reg (s : State) (r : Reg) : Byte := s.regs.get r

/-- `x[r] <- v`. -/
def State.setReg (s : State) (r : Reg) (v : Byte) : State := { s with regs := s.regs.set r v }

/-- `flag <- f`. -/
def State.setFlag (s : State) (f : CompareFlag) : State := { s with flag := f }

/-- `delay <- n`. -/
def State.setDelay (s : State) (n : BitVec 16) : State := { s with delay := n }

/-- `gpio[p]`. -/
def State.pin (s : State) (p : Pin) : Bool := s.gpio.get p

/-- `gpio[p] <- b`. -/
def State.setPin (s : State) (p : Pin) (b : Bool) : State := { s with gpio := s.gpio.set p b }

/-- `(cx, cy) <- c`. -/
def State.setCursor (s : State) (c : Cursor) : State := { s with cursor := c }

/-! ### Output -/

/-- `emit E` (44_peripheral_output.md R178). -/
def State.emit (s : State) (e : Event) : State := { s with trace := s.trace ++ [e] }

/-- `append(serialBuf, b)`. -/
def State.appendSerial (s : State) (b : Byte) : State := { s with serialBuf := s.serialBuf ++ [b] }

/-- `append(spiBuf, b)`. -/
def State.appendSpi (s : State) (b : Byte) : State := { s with spiBuf := s.spiBuf ++ [b] }

/-! ### The ADC -/

/-- The integer the next call of the ADC function answers (45_delay_adc.md R225). -/
def State.adcAnswer (s : State) : Int := Config.adc s.adcDraws

/-- One call of the ADC function was made: the next answer is another. -/
def State.drawAdc (s : State) : State := { s with adcDraws := s.adcDraws + 1 }

/-! ### The program counter -/

/-- `pc <- t`. -/
def State.setPc (s : State) (t : Nat) : State := { s with pc := t }

/-- No control transfer: `pc <- o + 2 + len`, `pc` still being `o` (40_step_cycle.md R105). -/
def State.advance (s : State) (len : Nat) : State := s.setPc (s.pc + 2 + len)

/-! ### Halting, stalling, faulting -/

/-- `running <- false`, and nothing else (40_step_cycle.md R101; 70_reset_and_hazards.md R291). -/
def State.halt (s : State) : State := { s with running := false }

/-- The halt test (40_step_cycle.md R101). -/
def State.mustHalt (s : State) : Bool := !s.running || decide (Config.flashCapacity ≤ s.pc)

/-- One count of a delay stall (40_step_cycle.md R102). -/
def State.stall (s : State) : State := s.setDelay (s.delay - 1)

/-- Whether a step that passes the halt test stalls (40_step_cycle.md R102). -/
def State.mustStall (s : State) : Bool := decide (0 < s.delay.toNat)

/-- Taking a fault: record it with the offset of the opcode byte, stop running, change nothing else (60_exceptions.md R240). -/
def State.raise (s : State) (k : FaultKind) (opcode : Option Byte) : State :=
  { s with fault := some { kind := k, opcode := opcode, pc := s.pc }, running := false }

/-- A step that raises a fault ends in the state `raise` leaves: there is no handler (R251). -/
def State.trap (s : State) (k : FaultKind) (opcode : Option Byte) : Result := .next (s.raise k opcode)

/-- What a load answers (70_reset_and_hazards.md R290). -/
inductive LoadReply where
  | success
  | capacityExceeded
deriving DecidableEq, Repr

/-- The state a successful load leaves (R280, R281). The mode of the pins, RAM and the draw counter are untouched. -/
def State.loaded (s : State) (image : List Byte) (gpioAtLoad : Vector Bool Config.gpioPins) : State :=
  { s with
    regs := Vector.replicate Config.nregs 0#8
    flag := .unset
    pc := 0
    running := true
    fault := none
    delay := 0#16
    gpio := gpioAtLoad
    serialBuf := []
    spiBuf := []
    trace := []
    cursor := Config.cursorHome
    flash := Memory.ofBytes 0 image
    imageLen := image.length }

/-- The firmware load, the block's reset and the only way out of a fault (R252): an image that fits is loaded, a longer one
is rejected with no change at all (R280, R282). -/
def State.load (s : State) (image : List Byte) (gpioAtLoad : Vector Bool Config.gpioPins) : State × LoadReply :=
  if image.length ≤ Config.flashCapacity then (s.loaded image gpioAtLoad, .success) else (s, .capacityExceeded)

end Sys2Proof.Machine
end

