-- ==== Sys2Proof/Machine/Flags.lean ====
section
/-! DEFINITION. The compare flag: how COMPARE computes it and how the conditional jumps test it (10_state.md R23 to R26). -/

namespace Sys2Proof.Machine

/-- `sign(d)` as a flag value (00_scope.md R9). -/
def signFlag (d : Int) : CompareFlag := if d < 0 then .minus else if d = 0 then .zero else .plus

/-- COMPARE's flag: the sign of the integer difference of the unsigned values (43_alu.md R164). -/
def compareFlag (a b : Byte) : CompareFlag := signFlag ((a.toNat : Int) - (b.toNat : Int))

/-- JUMP_EQ's condition (42_control_transfer.md R143); asked only of a flag that is set (R141). -/
def flagEq (f : CompareFlag) : Bool := decide (f = .zero)

/-- JUMP_NEQ's condition (R145). -/
def flagNeq (f : CompareFlag) : Bool := decide (f = .minus ∨ f = .plus)

/-- JUMP_GT's condition (R147). -/
def flagGt (f : CompareFlag) : Bool := decide (f = .plus)

/-- JUMP_LT's condition (R149). -/
def flagLt (f : CompareFlag) : Bool := decide (f = .minus)

end Sys2Proof.Machine
end

