-- ==== Sys2Proof/Machine/Operands.lean ====
section
/-! DEFINITION. Decoding the operand slice, one function per format (30_encoding.md R73 to R78): the operand-count check
(40_step_cycle.md R104), then the register-index check in operand order (R106). Operands past the required ones are ignored
(R72). -/

namespace Sys2Proof.Machine

/-- A register operand: valid below 16, else BadRegister (R74). -/
def registerOperand (r : Byte) : Except FaultKind Reg :=
  if h : r.toNat < Config.nregs then .ok ⟨r.toNat, h⟩ else .error .badRegister

/-- A pin number: pins 0..39 exist (R77). -/
def pinOperand (pin : Byte) : Option Pin :=
  if h : pin.toNat < Config.gpioPins then some ⟨pin.toNat, h⟩ else none

/-- DELAY's count from its low and its high byte (R78). -/
def delayCount (lo hi : Byte) : BitVec 16 := BitVec.ofNat 16 (hi.toNat * 256 + lo.toNat)

/-- Format N: no operand is required. -/
def operandsN (_ : List Byte) : Except FaultKind Unit := .ok ()

/-- Format R: one register. -/
def operandsR : List Byte → Except FaultKind Reg
  | r :: _ => registerOperand r
  | [] => .error .operandsShort

/-- Format A: a jump target, the offset itself (R76). -/
def operandsA : List Byte → Except FaultKind Nat
  | addr :: _ => .ok addr.toNat
  | [] => .error .operandsShort

/-- Format RR: two registers. -/
def operandsRR : List Byte → Except FaultKind (Reg × Reg)
  | a :: b :: _ =>
    match registerOperand a with
    | .error k => .error k
    | .ok r1 =>
      match registerOperand b with
      | .error k => .error k
      | .ok r2 => .ok (r1, r2)
  | _ => .error .operandsShort

/-- Format RI: a register and an immediate byte or pin number (R75, R77). -/
def operandsRI : List Byte → Except FaultKind (Reg × Byte)
  | a :: imm :: _ =>
    match registerOperand a with
    | .error k => .error k
    | .ok r => .ok (r, imm)
  | _ => .error .operandsShort

/-- Format II: two immediate bytes (R75). -/
def operandsII : List Byte → Except FaultKind (Byte × Byte)
  | lo :: hi :: _ => .ok (lo, hi)
  | _ => .error .operandsShort

end Sys2Proof.Machine
end

