-- ==== Sys2Proof/Machine/Alu.lean ====
section
/-! DEFINITION. ADD, SUB and COMPARE (43_alu.md): results over the integers, then reduced mod 256 (R158). -/

namespace Sys2Proof.Machine

/-- ADD: both registers are read before the write (R160). -/
def execAdd (ops : List Byte) (s : State) : Result :=
  match operandsRR ops with
  | .error k => s.trap k (some (Instr.add ops).opcode)
  | .ok (r1, r2) => .next ((s.setReg r1 (wrap8 ((s.reg r1).toNat + (s.reg r2).toNat))).advance ops.length)

/-- SUB: both registers are read before the write (R162). -/
def execSub (ops : List Byte) (s : State) : Result :=
  match operandsRR ops with
  | .error k => s.trap k (some (Instr.sub ops).opcode)
  | .ok (r1, r2) => .next ((s.setReg r1 (wrap8 ((s.reg r1).toNat - (s.reg r2).toNat))).advance ops.length)

/-- COMPARE (R164). -/
def execCompare (ops : List Byte) (s : State) : Result :=
  match operandsRR ops with
  | .error k => s.trap k (some (Instr.compare ops).opcode)
  | .ok (r1, r2) => .next ((s.setFlag (compareFlag (s.reg r1) (s.reg r2))).advance ops.length)

end Sys2Proof.Machine
end

