-- ==== Sys2Proof/Machine/ControlTransfer.lean ====
section
/-! DEFINITION. The jumps (42_control_transfer.md). -/

namespace Sys2Proof.Machine

/-- JUMP (R142). -/
def execJump (ops : List Byte) (s : State) : Result :=
  match operandsA ops with
  | .error k => s.trap k (some (Instr.jump ops).opcode)
  | .ok t => .next (s.setPc t)

/-- The branch resolver of the four conditional jumps (R141): an UNSET flag faults before the condition is asked. -/
def resolveBranch (opcode : Byte) (cond : CompareFlag → Bool) (ops : List Byte) (s : State) : Result :=
  match operandsA ops with
  | .error k => s.trap k (some opcode)
  | .ok t =>
    match s.flag with
    | .unset => s.trap .flagUnset (some opcode)
    | f => .next (if cond f then s.setPc t else s.advance ops.length)

/-- JUMP_EQ (R143). -/
def execJumpEq (ops : List Byte) (s : State) : Result := resolveBranch (Instr.jumpEq ops).opcode flagEq ops s

/-- JUMP_NEQ (R145). -/
def execJumpNeq (ops : List Byte) (s : State) : Result := resolveBranch (Instr.jumpNeq ops).opcode flagNeq ops s

/-- JUMP_GT (R147). -/
def execJumpGt (ops : List Byte) (s : State) : Result := resolveBranch (Instr.jumpGt ops).opcode flagGt ops s

/-- JUMP_LT (R149). -/
def execJumpLt (ops : List Byte) (s : State) : Result := resolveBranch (Instr.jumpLt ops).opcode flagLt ops s

end Sys2Proof.Machine
end

