-- ==== Sys2Proof/Machine/DelayAdc.lean ====
section
/-! DEFINITION. DELAY and READ_ADC (45_delay_adc.md). -/

namespace Sys2Proof.Machine

/-- DELAY (R221). -/
def execDelay (ops : List Byte) (s : State) : Result :=
  match operandsII ops with
  | .error k => s.trap k (some (Instr.delay ops).opcode)
  | .ok (lo, hi) => .next ((s.setDelay (delayCount lo hi)).advance ops.length)

/-- READ_ADC's register value: clamped from above, then reduced mod 256 (R226). -/
def adcValue (a : Int) : Byte := wrap8 (min a Config.adcClamp)

/-- READ_ADC: one call of the ADC function, none where the step faults (R226). -/
def execReadAdc (ops : List Byte) (s : State) : Result :=
  match operandsR ops with
  | .error k => s.trap k (some (Instr.readAdc ops).opcode)
  | .ok r => .next ((s.drawAdc.setReg r (adcValue s.adcAnswer)).advance ops.length)

end Sys2Proof.Machine
end

