-- ==== Sys2Proof/Machine/PeripheralOutput.lean ====
section
/-! DEFINITION. Serial, SPI and screen output (44_peripheral_output.md); each instruction emits exactly one event. -/

namespace Sys2Proof.Machine

/-- SERIAL_WRITE: the buffer and the event receive the same byte (R180). -/
def execSerialWrite (ops : List Byte) (s : State) : Result :=
  match operandsR ops with
  | .error k => s.trap k (some (Instr.serialWrite ops).opcode)
  | .ok r => .next (((s.appendSerial (s.reg r)).emit (.serialByte (s.reg r))).advance ops.length)

/-- SPI_WRITE (R183). -/
def execSpiWrite (ops : List Byte) (s : State) : Result :=
  match operandsR ops with
  | .error k => s.trap k (some (Instr.spiWrite ops).opcode)
  | .ok r => .next (((s.appendSpi (s.reg r)).emit (.spiByte (s.reg r))).advance ops.length)

/-- SCREEN_PRINT: the event carries the cursor from before the advance (R186). -/
def execScreenPrint (ops : List Byte) (s : State) : Result :=
  match operandsR ops with
  | .error k => s.trap k (some (Instr.screenPrint ops).opcode)
  | .ok r =>
    .next (((s.emit (.drawGlyphOrNewline (s.reg r) s.cursor.x s.cursor.y)).setCursor
      (Config.advance (s.reg r) s.cursor.x s.cursor.y)).advance ops.length)

/-- SCREEN_CLEAR (R189). -/
def execScreenClear (ops : List Byte) (s : State) : Result :=
  match operandsN ops with
  | .error k => s.trap k (some (Instr.screenClear ops).opcode)
  | .ok () => .next (((s.emit .clearScreen).setCursor Config.cursorHome).advance ops.length)

/-- DRAW_PIXEL: the coordinates are the registers' values (R192). -/
def execDrawPixel (ops : List Byte) (s : State) : Result :=
  match operandsRR ops with
  | .error k => s.trap k (some (Instr.drawPixel ops).opcode)
  | .ok (rx, ry) => .next ((s.emit (.drawPixel (s.reg rx) (s.reg ry))).advance ops.length)

/-- Move the cursor and emit the new cursor (R195, R198). -/
def State.moveCursor (s : State) (c : Cursor) : State := (s.setCursor c).emit (.cursorMoved c.x c.y)

/-- MOVE_X (R195). -/
def execMoveX (ops : List Byte) (s : State) : Result :=
  match operandsR ops with
  | .error k => s.trap k (some (Instr.moveX ops).opcode)
  | .ok r => .next ((s.moveCursor { s.cursor with x := (s.reg r).toNat }).advance ops.length)

/-- MOVE_Y (R198). -/
def execMoveY (ops : List Byte) (s : State) : Result :=
  match operandsR ops with
  | .error k => s.trap k (some (Instr.moveY ops).opcode)
  | .ok r => .next ((s.moveCursor { s.cursor with y := (s.reg r).toNat }).advance ops.length)

end Sys2Proof.Machine
end

