-- ==== Sys2Proof/Machine/RegisterGpio.lean ====
section
/-! DEFINITION. LOAD_IMM, STORE_GPIO and LOAD_GPIO (41_register_gpio.md). -/

namespace Sys2Proof.Machine

/-- LOAD_IMM (R120). -/
def execLoadImm (ops : List Byte) (s : State) : Result :=
  match operandsRI ops with
  | .error k => s.trap k (some (Instr.loadImm ops).opcode)
  | .ok (r, value) => .next ((s.setReg r value).advance ops.length)

/-- STORE_GPIO: a pin of 40 or more is ignored (R124). -/
def execStoreGpio (ops : List Byte) (s : State) : Result :=
  match operandsRI ops with
  | .error k => s.trap k (some (Instr.storeGpio ops).opcode)
  | .ok (r, pin) =>
    match pinOperand pin with
    | some p => .next ((s.setPin p (bit0 (s.reg r))).advance ops.length)
    | none => .next (s.advance ops.length)

/-- LOAD_GPIO: a pin of 40 or more is ignored (R127). -/
def execLoadGpio (ops : List Byte) (s : State) : Result :=
  match operandsRI ops with
  | .error k => s.trap k (some (Instr.loadGpio ops).opcode)
  | .ok (r, pin) =>
    match pinOperand pin with
    | some p => .next ((s.setReg r (zext8 (s.pin p))).advance ops.length)
    | none => .next (s.advance ops.length)

end Sys2Proof.Machine
end

