-- ==== Sys2Proof/Machine/Dispatch.lean ====
section
/-! DEFINITION. Dispatch: one handler per opcode (40_step_cycle.md R107). -/

namespace Sys2Proof.Machine

/-- The meaning of an instruction whose opcode byte is at `s.pc`. -/
def exec (i : Instr) (s : State) : Host.Outcome State Fault Refusal :=
  match i with
  | .loadImm ops => Sys2Proof.Machine.execLoadImm ops s
  | .storeGpio ops => Sys2Proof.Machine.execStoreGpio ops s
  | .loadGpio ops => Sys2Proof.Machine.execLoadGpio ops s
  | .jump ops => Sys2Proof.Machine.execJump ops s
  | .serialWrite ops => Sys2Proof.Machine.execSerialWrite ops s
  | .add ops => Sys2Proof.Machine.execAdd ops s
  | .sub ops => Sys2Proof.Machine.execSub ops s
  | .compare ops => Sys2Proof.Machine.execCompare ops s
  | .jumpEq ops => Sys2Proof.Machine.execJumpEq ops s
  | .jumpNeq ops => Sys2Proof.Machine.execJumpNeq ops s
  | .delay ops => Sys2Proof.Machine.execDelay ops s
  | .readAdc ops => Sys2Proof.Machine.execReadAdc ops s
  | .spiWrite ops => Sys2Proof.Machine.execSpiWrite ops s
  | .screenPrint ops => Sys2Proof.Machine.execScreenPrint ops s
  | .screenClear ops => Sys2Proof.Machine.execScreenClear ops s
  | .drawPixel ops => Sys2Proof.Machine.execDrawPixel ops s
  | .moveX ops => Sys2Proof.Machine.execMoveX ops s
  | .moveY ops => Sys2Proof.Machine.execMoveY ops s
  | .jumpGt ops => Sys2Proof.Machine.execJumpGt ops s
  | .jumpLt ops => Sys2Proof.Machine.execJumpLt ops s

end Sys2Proof.Machine
end

