-- ==== Sys2Proof/Machine/Fetch.lean ====
section
/-! DEFINITION. Fetching a record from program memory (40_step_cycle.md R103). -/

namespace Sys2Proof.Machine

/-- The bytes that hold a value at `o`, `o + 1`, ..., at most `n` of them. -/
def State.readBytes (s : State) : Nat → Nat → List Byte
  | _, 0 => []
  | o, n + 1 =>
    match s.memRead o with
    | none => []
    | some b => b :: s.readBytes (o + 1) n

/-- The record at the program counter. -/
def State.fetch (s : State) : Except DecodeError (Instr × List Byte) := decode (s.readBytes s.pc longestRecord)

/-- The fault of a record that cannot be fetched (60_exceptions.md R241, R242): a missing opcode byte records no opcode. -/
def State.fetchTrap (s : State) : DecodeError → Result
  | .noOpcode => s.trap .fetchUnwritten none
  | .unknownOpcode opc => s.trap .unknownOpcode (some opc)
  | .truncated opc => s.trap .fetchUnwritten (some opc)

/-- Bytes placed where the next step fetches, with what that fetch needs: the machine runs, no delay is pending, and the
image reaches over the bytes. Bytes that would lie past the flash are dropped. DESIGN CHOICE, log entry 10: unsafe. -/
def State.placeBytes (s : State) (bs : List Byte) : State :=
  { s with
    flash := s.flash.writeBytes s.pc (bs.take (Config.flashCapacity - s.pc))
    imageLen := max s.imageLen (min Config.flashCapacity (s.pc + bs.length))
    running := true
    delay := 0#16 }

end Sys2Proof.Machine
end

