-- ==== Sys2Proof/Machine/Step.lean ====
section
/-! DEFINITION. One step (40_step_cycle.md R100): halt test, delay stall, fetch and decode, then the instruction's meaning. -/

namespace Sys2Proof.Machine

/-- One step (R100); the order of the checks is R109's. -/
def step (s : State) : Host.Outcome State Fault Refusal :=
  if s.mustHalt then .next s.halt
  else if s.mustStall then .next s.stall
  else
    match s.fetch with
    | .error e => s.fetchTrap e
    | .ok (i, _) => exec i s

/-- `s` with the record of a table word placed where the next step fetches. DESIGN CHOICE, log entry 10: unsafe. -/
def State.withFetchWord (s : State) (nbits w : Nat) : State := s.placeBytes (tableRecord nbits w)

end Sys2Proof.Machine
end

