-- ==== Sys2Proof/Machine/HostInterface.lean ====
section
/-! DEFINITION. What the host can do to the block between steps (70_reset_and_hazards.md R290 to R295). That the ADC function
and the sink are always supplied is DEDUCED, log entry 15: unsafe. -/

namespace Sys2Proof.Machine

/-- The state after one step. (`step` always answers a next state; the other arms are there for totality.) -/
def State.stepped (s : State) : State :=
  match step s with
  | .next t => t
  | .fault _ => s
  | .refused _ => s

/-- `run(n)`: n steps (R295, D39). -/
def State.runSteps : Nat → State → State
  | 0, s => s
  | n + 1, s => State.runSteps n s.stepped

/-- The host's cancellation (R291). -/
def State.stop (s : State) : State := s.halt

/-- The clear of the register file before a compile (R292). -/
def State.compileClear (s : State) : State := { s with regs := Vector.replicate Config.nregs 0#8 }

/-- What the observability accessors show (R293). -/
structure Snapshot where
  gpio : Vector Bool Config.gpioPins
  serialBuf : List Byte
  spiBuf : List Byte
deriving DecidableEq, Repr

/-- The read-only snapshot (R293). -/
def State.snapshot (s : State) : Snapshot := { gpio := s.gpio, serialBuf := s.serialBuf, spiBuf := s.spiBuf }

/-- The fault report's address, the absolute address of the faulting opcode byte (60_exceptions.md R240, D18). -/
def FaultRecord.address (r : FaultRecord) : Nat := absoluteAddress r.pc

/-- How one step ended (40_step_cycle.md R100, R109). -/
inductive StepReport where
  | halted
  | stalled
  | faulted (r : FaultRecord)
  | executed
deriving DecidableEq, Repr

/-- The label of the step the machine is about to take. A step that passes the halt test clears `running` only by raising a
fault (DEDUCED from R30 and R240, log entry 12: safe). -/
def State.stepReport (s : State) : StepReport :=
  if s.mustHalt then .halted
  else if s.mustStall then .stalled
  else
    match s.stepped.running, s.stepped.fault with
    | false, some r => .faulted r
    | _, _ => .executed

/-- The host's interactions (R290). The ADC answers are `Config.adc`, and the sink's events are `State.trace`. -/
inductive HostAction where
  | load (image : List Byte) (gpioAtLoad : Vector Bool Config.gpioPins)
  | step
  | run (n : Nat)
  | stop
  | compile
  | snapshot
deriving DecidableEq, Repr

/-- What the host gets back (R290). -/
inductive HostReply where
  | nothing
  | load (r : LoadReply)
  | snapshot (v : Snapshot)
deriving DecidableEq, Repr

/-- One host interaction, taken between steps (R290). -/
def hostAct (a : HostAction) (s : State) : State × HostReply :=
  match a with
  | .load image g => ((s.load image g).1, .load (s.load image g).2)
  | .step => (s.stepped, .nothing)
  | .run n => (s.runSteps n, .nothing)
  | .stop => (s.stop, .nothing)
  | .compile => (s.compileClear, .nothing)
  | .snapshot => (s, .snapshot s.snapshot)

end Sys2Proof.Machine
end

