-- ==== Sys2Proof/Safety.lean ====
section
/-! DEFINITION. How a run ends, and the consistency of a state, in the terms the claims use. -/

namespace Sys2Proof.Machine

/-- A clean end: halted with no fault recorded (70_reset_and_hazards.md R285). -/
abbrev State.CleanEnd (s : State) : Prop := s.running = false ∧ s.fault = none

/-- A faulted end (R285). -/
abbrev State.FaultedEnd (s : State) : Prop := s.fault ≠ none

/-- The state is at the point where it fetches: the halt test and the stall test pass (40_step_cycle.md R109). -/
abbrev State.Ready (s : State) : Prop := s.running = true ∧ s.pc < Config.flashCapacity ∧ s.delay = 0#16

/-- The bytes at the program counter begin with `bs` (20_memory.md R50). -/
abbrev State.BytesAtPc (s : State) (bs : List Byte) : Prop := ∀ k, (h : k < bs.length) → s.memRead (s.pc + k) = some bs[k]

/-- Program memory is canonical, within the flash, and holds a value exactly below `imageLen` (10_state.md R40, R41). -/
structure State.ImageExact (s : State) : Prop where
  canonical : s.flash.wf
  fits : s.imageLen ≤ Config.flashCapacity
  exact : ∀ o, (s.flash.read o).isSome = true ↔ o < s.imageLen

/-- Working memory is canonical and within its size (R42). -/
structure State.RamInRange (s : State) : Prop where
  canonical : s.ram.wf
  fits : ∀ c ∈ s.ram, c.1 < Config.ramSize

/-- What a fault record of each kind may hold as its opcode (60_exceptions.md R241 to R245). -/
def FaultRecord.OpcodeFits (r : FaultRecord) : Prop :=
  match r.kind, r.opcode with
  | .unknownOpcode, some b => selectOpcode b = none
  | .unknownOpcode, none => False
  | .fetchUnwritten, none => True
  | _, none => False
  | _, some b => selectOpcode b ≠ none

/-- A recorded fault has stopped the machine at the faulting opcode byte, and the record's opcode is the byte there, or absent
where there is none (10_state.md R31; R240). -/
structure State.FaultStops (s : State) : Prop where
  stopped : s.fault ≠ none → s.running = false
  atOpcode : ∀ r, s.fault = some r → r.pc = s.pc
  opcode : ∀ r, s.fault = some r → r.OpcodeFits
  byte : ∀ r, s.fault = some r → r.opcode = s.memRead r.pc

/-- The byte of a SerialByte event. -/
def Event.serial : Event → Option Byte
  | .serialByte b => some b
  | _ => none

/-- The byte of an SpiByte event. -/
def Event.spi : Event → Option Byte
  | .spiByte b => some b
  | _ => none

/-- The buffers hold exactly the bytes of the events the sink received (44_peripheral_output.md R180, R183). -/
structure State.BuffersMatchTrace (s : State) : Prop where
  serial : s.serialBuf = s.trace.filterMap Event.serial
  spi : s.spiBuf = s.trace.filterMap Event.spi

/-- The program counter is a jump target or lies within or just past the image (42_control_transfer.md R140;
40_step_cycle.md R105). -/
abbrev State.PcBounded (s : State) : Prop := s.pc ≤ max 255 s.imageLen

/-- The invariant of every launch. -/
structure State.Consistent (s : State) : Prop where
  image : s.ImageExact
  ram : s.RamInRange
  fault : s.FaultStops
  buffers : s.BuffersMatchTrace
  pc : s.PcBounded

end Sys2Proof.Machine
end

