-- ==== Sys2Proof/Certificates/Slice0/Obligations.lean ====
section
/-! DEFINITION. The statements for the provers, from the numbered rules of spec/. -/

open Sys2Proof Sys2Proof.Machine

namespace Sys2Proof.Claims

/-! ### Words the statements share -/

/-- The state a fault leaves: the record and `running`, nothing else (60_exceptions.md R240). -/
abbrev faultedAt (s : State) (k : FaultKind) (opcode : Option Byte) : State :=
  { s with fault := some { kind := k, opcode := opcode, pc := s.pc }, running := false }

/-- After a known opcode byte, the length byte or one of the `len` operand bytes holds no value (40_step_cycle.md R103). -/
abbrev RecordCut (s : State) : Prop :=
  s.memRead (s.pc + 1) = none ∨
    ∃ len, s.memRead (s.pc + 1) = some len ∧ ∃ k < len.toNat, s.memRead (s.pc + 2 + k) = none

/-- The record of an opcode: its encoding; a step at a whole record runs the instruction; a step at a record that is cut off
raises FetchUnwritten with the opcode. -/
def RecordRule (make : List Byte → Instr) (opc : Byte) : Prop :=
  (∀ ops, encode (make ops) = opc :: BitVec.ofNat 8 ops.length :: ops) ∧
  (∀ (s : State) (ops : List Byte), s.Ready → ops.length ≤ 255 →
    s.BytesAtPc (opc :: BitVec.ofNat 8 ops.length :: ops) → step s = exec (make ops) s) ∧
  (∀ s : State, s.Ready → s.memRead s.pc = some opc → RecordCut s →
    step s = .next (faultedAt s .fetchUnwritten (some opc)))

/-- Fewer than `n` operands: OperandsShort. -/
def ShortRule (make : List Byte → Instr) (opc : Byte) (n : Nat) : Prop :=
  ∀ (s : State) (ops : List Byte), ops.length < n → exec (make ops) s = .next (faultedAt s .operandsShort (some opc))

/-- One register operand, of `n` operands: 16 or more is BadRegister. -/
def BadRegisterRule (make : List Byte → Instr) (opc : Byte) (n : Nat) : Prop :=
  ∀ (s : State) (r : Byte) (rest : List Byte), n ≤ (r :: rest).length → 16 ≤ r.toNat →
    exec (make (r :: rest)) s = .next (faultedAt s .badRegister (some opc))

/-- Two register operands: either of 16 or more is BadRegister. -/
def BadRegisterPairRule (make : List Byte → Instr) (opc : Byte) : Prop :=
  ∀ (s : State) (a b : Byte) (extra : List Byte), 16 ≤ a.toNat ∨ 16 ≤ b.toNat →
    exec (make (a :: b :: extra)) s = .next (faultedAt s .badRegister (some opc))

/-- A conditional jump that is taken on the flag values `taken`: UNSET faults, whatever the condition; taken, only the pc
changes, to the target; not taken, it advances by the record's length. -/
def BranchRule (make : List Byte → Instr) (opc : Byte) (taken : CompareFlag → Prop) : Prop :=
  ∀ (s : State) (addr : Byte) (extra : List Byte),
    (s.flag = .unset → exec (make (addr :: extra)) s = .next (faultedAt s .flagUnset (some opc))) ∧
    (s.flag ≠ .unset → taken s.flag → exec (make (addr :: extra)) s = .next { s with pc := addr.toNat }) ∧
    (s.flag ≠ .unset → ¬ taken s.flag →
      exec (make (addr :: extra)) s = .next { s with pc := s.pc + 2 + (1 + extra.length) })

/-- The four conditional jumps (42_control_transfer.md R141). -/
def conditional : Instr → Bool
  | .jumpEq _ => true
  | .jumpNeq _ => true
  | .jumpGt _ => true
  | .jumpLt _ => true
  | _ => false

/-- The instructions that transfer control on a flag value, to their first operand (40_step_cycle.md R105). -/
def transfers (i : Instr) (f : CompareFlag) : Prop :=
  match i with
  | .jump _ => True
  | .jumpEq _ => f = .zero
  | .jumpNeq _ => f = .minus ∨ f = .plus
  | .jumpGt _ => f = .plus
  | .jumpLt _ => f = .minus
  | _ => False

/-- The emitting instructions (44_peripheral_output.md). -/
def emits : Instr → Bool
  | .serialWrite _ => true
  | .spiWrite _ => true
  | .screenPrint _ => true
  | .screenClear _ => true
  | .drawPixel _ => true
  | .moveX _ => true
  | .moveY _ => true
  | _ => false

/-- Every byte of memory reads as before, and memory's own fields are unchanged. -/
abbrev SameMemory (s t : State) : Prop :=
  (∀ a, t.memRead a = s.memRead a) ∧ (∀ a, t.ram.read a = s.ram.read a) ∧
    t.flash = s.flash ∧ t.imageLen = s.imageLen ∧ t.ram = s.ram

/-- The fault state is unchanged, or the instruction faulted and the fault is all that changed. -/
abbrev SameControl (i : Instr) (s t : State) : Prop :=
  (t.running = s.running ∧ t.fault = s.fault) ∨ ∃ k, t = faultedAt s k (some i.opcode)

/-- What steps and later computation can depend on: everything but the outputs, the cursor, the pin modes and RAM. -/
abbrev SameCore (s t : State) : Prop :=
  s.regs = t.regs ∧ s.flag = t.flag ∧ s.pc = t.pc ∧ s.running = t.running ∧ s.fault = t.fault ∧ s.delay = t.delay ∧
    s.gpio = t.gpio ∧ s.flash = t.flash ∧ s.imageLen = t.imageLen ∧ s.adcDraws = t.adcDraws

end Sys2Proof.Claims

open Sys2Proof.Claims

/-! ### Encoding -/

/-- R70, R80: a record decodes to the instruction it encodes, whatever follows it, for every opcode, every length and every
operand byte. -/
def Obligations.DecodeOfEncode : Prop :=
  ∀ (i : Instr) (after : List Byte), i.LenFits → decode (encode i ++ after) = .ok (i, after)

/-- R70, R82: what decodes is the record it encodes back to, followed by the rest: no byte of a record is dropped. -/
def Obligations.EncodeOfDecode : Prop :=
  ∀ (bs after : List Byte) (i : Instr), decode bs = .ok (i, after) → i.LenFits ∧ bs = encode i ++ after

/-- R80: records written out from the opcode map and the formats, a few of them. -/
def Obligations.SpecWordsDecode : Prop :=
  decode [0b00000001#8, 0b00000010#8, 0b00000011#8, 0b00101010#8] = .ok (.loadImm [0x03#8, 0x2A#8], []) ∧
  decode [0b00011111#8, 0b00000001#8, 0b00010111#8] = .ok (.jumpLt [0x17#8], []) ∧
  decode [0b00010010#8, 0b00000010#8, 0b00000110#8, 0b00000101#8] = .ok (.sub [0x06#8, 0x05#8], []) ∧
  decode [0b00011010#8, 0b00000000#8] = .ok (.screenClear [], []) ∧
  decode [0b00010110#8, 0b00000010#8, 0b00000011#8, 0b00000000#8] = .ok (.delay [0x03#8, 0x00#8], []) ∧
  decode [0b00000001#8, 0b00000011#8, 0b00000000#8, 0b00000111#8, 0b11111111#8] =
    .ok (.loadImm [0x00#8, 0x07#8, 0xFF#8], [])

/-- R81, R241: the unassigned opcodes are 0x00, 0x06 to 0x10 and 0x20 to 0xFF, and a step that fetches one raises
UnknownOpcode with the byte and its offset, whatever stands after it, and leaves all else. -/
def Obligations.UnassignedOpcodesFault : Prop :=
  (∀ b : Byte, selectOpcode b = none ↔
    b.toNat = 0 ∨ (0x06 ≤ b.toNat ∧ b.toNat ≤ 0x10) ∨ 0x20 ≤ b.toNat) ∧
  ∀ (s : State) (b : Byte), s.Ready → s.memRead s.pc = some b →
    (b.toNat = 0 ∨ (0x06 ≤ b.toNat ∧ b.toNat ≤ 0x10) ∨ 0x20 ≤ b.toNat) →
    step s = .next (faultedAt s .unknownOpcode (some b))

/-! ### The step -/

/-- R101, R294: the halt test clears `running` and changes nothing else; a halted machine stays as it is under any number of
steps; and of the host's actions only a successful load makes it run again. -/
def Obligations.HaltedStepChangesNothing : Prop :=
  (∀ s : State, s.running = false ∨ Config.flashCapacity ≤ s.pc → step s = .next { s with running := false }) ∧
  (∀ (s : State) (n : Nat), s.running = false → s.runSteps n = s) ∧
  ∀ (a : HostAction) (s : State), s.running = false → (hostAct a s).1.running = true →
    ∃ image g, a = .load image g ∧ image.length ≤ Config.flashCapacity

/-- R102: past the halt test, a positive delay is decremented and nothing else changes. -/
def Obligations.StalledStepDecrementsDelay : Prop :=
  ∀ s : State, s.running = true → s.pc < Config.flashCapacity → 0 < s.delay.toNat →
    ∃ d : BitVec 16, d.toNat = s.delay.toNat - 1 ∧ step s = .next { s with delay := d }

/-- R100: a step at a whole record is the meaning of the decoded instruction; the step adds nothing around it. -/
def Obligations.StepRunsDecodedInstruction : Prop :=
  ∀ (s : State) (i : Instr), s.Ready → i.LenFits → s.BytesAtPc (encode i) → step s = exec i s

/-- R109: which outcome a step has, in the rule's order. -/
def Obligations.StepChecksInOrder : Prop :=
  ∀ s : State,
    (s.running = false ∨ Config.flashCapacity ≤ s.pc → step s = .next { s with running := false }) ∧
    (s.running = true → s.pc < Config.flashCapacity → 0 < s.delay.toNat →
      step s = .next { s with delay := s.delay - 1 }) ∧
    (s.Ready →
      (s.memRead s.pc = none → step s = .next (faultedAt s .fetchUnwritten none)) ∧
      (∀ opc, s.memRead s.pc = some opc → selectOpcode opc = none →
        step s = .next (faultedAt s .unknownOpcode (some opc))) ∧
      (∀ opc make, s.memRead s.pc = some opc → selectOpcode opc = some make → RecordCut s →
        step s = .next (faultedAt s .fetchUnwritten (some opc))) ∧
      (∀ i : Instr, i.LenFits → s.BytesAtPc (encode i) →
        (¬ i.Enough → step s = .next (faultedAt s .operandsShort (some i.opcode))) ∧
        (i.Enough → ¬ i.RegistersValid → step s = .next (faultedAt s .badRegister (some i.opcode))) ∧
        (i.Enough → i.RegistersValid → conditional i = true → s.flag = .unset →
          step s = .next (faultedAt s .flagUnset (some i.opcode))) ∧
        (i.Enough → i.RegistersValid → (conditional i = true → s.flag ≠ .unset) →
          ∃ t, step s = .next t ∧ t.running = true ∧ t.fault = s.fault)))

/-- R84: every state has a next state, and at the point of fetching exactly one of the decoding outcomes holds: no opcode
byte, an unassigned opcode, a record cut off, or a whole record. -/
def Obligations.StepIsTotal : Prop :=
  (∀ s : State, ∃ t, step s = .next t) ∧
  ∀ s : State, s.Ready →
    s.memRead s.pc = none ∨
    (∃ opc, s.memRead s.pc = some opc ∧ selectOpcode opc = none) ∨
    (∃ opc make, s.memRead s.pc = some opc ∧ selectOpcode opc = some make ∧ RecordCut s) ∨
    ∃ i : Instr, i.LenFits ∧ s.BytesAtPc (encode i)

/-- R105: a well-formed instruction completes; the pc is the target where control transfers, and `o + 2 + len` elsewhere. -/
def Obligations.InstructionsCompleteAndAdvance : Prop :=
  ∀ (i : Instr) (s : State), i.Enough → i.RegistersValid → (conditional i = true → s.flag ≠ .unset) →
    ∃ t, exec i s = .next t ∧ t.running = s.running ∧ t.fault = s.fault ∧
      (transfers i s.flag → ∃ addr extra, i.operands = addr :: extra ∧ t.pc = addr.toNat) ∧
      (¬ transfers i s.flag → t.pc = s.pc + 2 + i.operands.length)

/-- R72: operands past the required ones change nothing but the length the pc advances by. -/
def Obligations.ExtraOperandsOnlyLengthen : Prop :=
  ∀ (opc : Byte) (make : List Byte → Instr) (ops extra : List Byte) (s : State),
    selectOpcode opc = some make → (make ops).Enough →
    ∃ t, exec (make ops) s = .next t ∧
      (exec (make (ops ++ extra)) s = .next t ∨
        (t.pc = s.pc + 2 + ops.length ∧
          exec (make (ops ++ extra)) s = .next { t with pc := s.pc + 2 + (ops ++ extra).length }))

/-! ### Faults -/

/-- R240: a step that records a fault changes the record and `running` alone, with the pc left at the opcode byte; every later
step changes nothing; and where a recorded fault has stopped the machine, no host action overwrites the record and only a
successful load clears it. -/
def Obligations.FaultChangesOnlyRecordAndRunning : Prop :=
  (∀ s t : State, step s = .next t → t.fault ≠ s.fault →
    (∃ k opc, t = faultedAt s k opc) ∧ ∀ n, t.runSteps n = t) ∧
  ∀ (a : HostAction) (s : State) (r : FaultRecord), s.FaultStops → s.fault = some r →
    (hostAct a s).1.fault = some r ∨
      ((hostAct a s).1.fault = none ∧ ∃ image g, a = .load image g ∧ image.length ≤ Config.flashCapacity)

/-- R242: FetchUnwritten on the opcode byte, and on any later byte of a record with a known opcode; a jump past the image
raises nothing itself, and the step after it faults at the target. -/
def Obligations.UnwrittenBytesFaultWhenFetched : Prop :=
  (∀ s : State, s.Ready → s.imageLen ≤ s.pc → step s = .next (faultedAt s .fetchUnwritten none)) ∧
  (∀ (s : State) (opc : Byte) (make : List Byte → Instr), s.Ready → s.memRead s.pc = some opc →
    selectOpcode opc = some make → RecordCut s → step s = .next (faultedAt s .fetchUnwritten (some opc))) ∧
  ∀ (s : State) (addr : Byte) (extra : List Byte), s.Ready → s.imageLen ≤ addr.toNat →
    exec (.jump (addr :: extra)) s = .next { s with pc := addr.toNat } ∧
    step { s with pc := addr.toNat } = .next (faultedAt { s with pc := addr.toNat } .fetchUnwritten none)

/-- R244, R245: every instruction with too few operands raises OperandsShort, whatever the registers it names; with its
operands, a register operand of 16 or more raises BadRegister, even where the instruction would not use it. -/
def Obligations.IllFormedOperandsFault : Prop :=
  (∀ (i : Instr) (s : State), i.operands.length < i.nreq →
    exec i s = .next (faultedAt s .operandsShort (some i.opcode))) ∧
  ∀ (i : Instr) (s : State), i.nreq ≤ i.operands.length → (∃ r ∈ i.registerOperands, 16 ≤ r.toNat) →
    exec i s = .next (faultedAt s .badRegister (some i.opcode))

/-! ### Register and GPIO instructions -/

/-- R120: LOAD_IMM. -/
def Obligations.LoadImmWritesValue : Prop :=
  RecordRule .loadImm 0x01#8 ∧ ShortRule .loadImm 0x01#8 2 ∧ BadRegisterRule .loadImm 0x01#8 2 ∧
  ∀ (s : State) (r value : Byte) (extra : List Byte) (h : r.toNat < 16),
    exec (.loadImm (r :: value :: extra)) s =
      .next { s with regs := s.regs.set r.toNat value h, pc := s.pc + 2 + (2 + extra.length) }

/-- R124: STORE_GPIO: bit 0 goes to a pin below 40; a higher pin changes only the pc. -/
def Obligations.StoreGpioWritesBitZero : Prop :=
  RecordRule .storeGpio 0x02#8 ∧ ShortRule .storeGpio 0x02#8 2 ∧ BadRegisterRule .storeGpio 0x02#8 2 ∧
  ∀ (s : State) (r pin : Byte) (extra : List Byte) (h : r.toNat < 16),
    (∀ hp : pin.toNat < 40, exec (.storeGpio (r :: pin :: extra)) s =
      .next { s with
        gpio := s.gpio.set pin.toNat (decide (s.regs[r.toNat].toNat % 2 = 1)) hp
        pc := s.pc + 2 + (2 + extra.length) }) ∧
    (40 ≤ pin.toNat → exec (.storeGpio (r :: pin :: extra)) s = .next { s with pc := s.pc + 2 + (2 + extra.length) })

/-- R127: LOAD_GPIO: the register receives 0 or 1 from a pin below 40; a higher pin changes only the pc. -/
def Obligations.LoadGpioReadsPin : Prop :=
  RecordRule .loadGpio 0x03#8 ∧ ShortRule .loadGpio 0x03#8 2 ∧ BadRegisterRule .loadGpio 0x03#8 2 ∧
  ∀ (s : State) (r pin : Byte) (extra : List Byte) (h : r.toNat < 16),
    (∀ hp : pin.toNat < 40, exec (.loadGpio (r :: pin :: extra)) s =
      .next { s with
        regs := s.regs.set r.toNat (if s.gpio[pin.toNat] then 1#8 else 0#8) h
        pc := s.pc + 2 + (2 + extra.length) }) ∧
    (40 ≤ pin.toNat → exec (.loadGpio (r :: pin :: extra)) s = .next { s with pc := s.pc + 2 + (2 + extra.length) })

/-- R128: a LOAD_GPIO of a pin whose value is still what a STORE_GPIO left loads bit 0 of the stored register; and no
instruction but a STORE_GPIO to that pin changes a pin. -/
def Obligations.StoreThenLoadGpio : Prop :=
  (∀ (s t u : State) (r q pin : Byte) (xs ys : List Byte) (hr : r.toNat < 16) (hq : q.toNat < 16) (hp : pin.toNat < 40),
    exec (.storeGpio (r :: pin :: xs)) s = .next t → u.gpio[pin.toNat] = t.gpio[pin.toNat] →
    ∃ v : Byte, v.toNat = s.regs[r.toNat].toNat % 2 ∧
      exec (.loadGpio (q :: pin :: ys)) u =
        .next { u with regs := u.regs.set q.toNat v hq, pc := u.pc + 2 + (2 + ys.length) }) ∧
  ∀ (i : Instr) (s t : State) (p : Fin 40), exec i s = .next t → t.gpio[p] ≠ s.gpio[p] →
    ∃ r pin xs, i = .storeGpio (r :: pin :: xs) ∧ pin.toNat = p.val

/-! ### Control transfer -/

/-- R142: JUMP: only the pc changes, to the target; the flag is not read. -/
def Obligations.JumpGoesToTarget : Prop :=
  RecordRule .jump 0x04#8 ∧ ShortRule .jump 0x04#8 1 ∧
  (∀ (s : State) (addr : Byte) (extra : List Byte),
    exec (.jump (addr :: extra)) s = .next { s with pc := addr.toNat }) ∧
  ∀ (s : State) (addr : Byte) (extra : List Byte) (n : Nat), s.Ready → extra.length < 255 → s.pc = addr.toNat →
    s.BytesAtPc (encode (.jump (addr :: extra))) → s.runSteps n = s

/-- R143: JUMP_EQ. -/
def Obligations.JumpEqTakenOnZero : Prop :=
  RecordRule .jumpEq 0x14#8 ∧ ShortRule .jumpEq 0x14#8 1 ∧ BranchRule .jumpEq 0x14#8 fun f => f = .zero

/-- R145: JUMP_NEQ. -/
def Obligations.JumpNeqTakenOnNonzero : Prop :=
  RecordRule .jumpNeq 0x15#8 ∧ ShortRule .jumpNeq 0x15#8 1 ∧
    BranchRule .jumpNeq 0x15#8 fun f => f = .minus ∨ f = .plus

/-- R147: JUMP_GT. -/
def Obligations.JumpGtTakenOnPlus : Prop :=
  RecordRule .jumpGt 0x1E#8 ∧ ShortRule .jumpGt 0x1E#8 1 ∧ BranchRule .jumpGt 0x1E#8 fun f => f = .plus

/-- R149: JUMP_LT. -/
def Obligations.JumpLtTakenOnMinus : Prop :=
  RecordRule .jumpLt 0x1F#8 ∧ ShortRule .jumpLt 0x1F#8 1 ∧ BranchRule .jumpLt 0x1F#8 fun f => f = .minus

/-! ### ALU -/

/-- R160: ADD: the sum of the two registers as they were, mod 256. -/
def Obligations.AddWrapsModulo256 : Prop :=
  RecordRule .add 0x11#8 ∧ ShortRule .add 0x11#8 2 ∧ BadRegisterPairRule .add 0x11#8 ∧
  ∀ (s : State) (a b : Byte) (extra : List Byte) (ha : a.toNat < 16) (hb : b.toNat < 16),
    ∃ v : Byte, v.toNat = (s.regs[a.toNat].toNat + s.regs[b.toNat].toNat) % 256 ∧
      exec (.add (a :: b :: extra)) s =
        .next { s with regs := s.regs.set a.toNat v ha, pc := s.pc + 2 + (2 + extra.length) }

/-- R162: SUB: the difference of the two registers as they were, by the Euclidean mod 256. -/
def Obligations.SubWrapsModulo256 : Prop :=
  RecordRule .sub 0x12#8 ∧ ShortRule .sub 0x12#8 2 ∧ BadRegisterPairRule .sub 0x12#8 ∧
  ∀ (s : State) (a b : Byte) (extra : List Byte) (ha : a.toNat < 16) (hb : b.toNat < 16),
    ∃ v : Byte, (v.toNat : Int) = ((s.regs[a.toNat].toNat : Int) - (s.regs[b.toNat].toNat : Int)) % 256 ∧
      exec (.sub (a :: b :: extra)) s =
        .next { s with regs := s.regs.set a.toNat v ha, pc := s.pc + 2 + (2 + extra.length) }

/-- R164: COMPARE: the flag is the order of the unsigned values. -/
def Obligations.CompareSetsFlagBySign : Prop :=
  RecordRule .compare 0x13#8 ∧ ShortRule .compare 0x13#8 2 ∧ BadRegisterPairRule .compare 0x13#8 ∧
  ∀ (s : State) (a b : Byte) (extra : List Byte) (_ : a.toNat < 16) (_ : b.toNat < 16),
    exec (.compare (a :: b :: extra)) s =
      .next { s with
        flag := if s.regs[a.toNat].toNat < s.regs[b.toNat].toNat then .minus
          else if s.regs[a.toNat].toNat = s.regs[b.toNat].toNat then .zero else .plus
        pc := s.pc + 2 + (2 + extra.length) }

/-! ### Peripheral output -/

/-- R180: SERIAL_WRITE. -/
def Obligations.SerialWriteAppendsByte : Prop :=
  RecordRule .serialWrite 0x05#8 ∧ ShortRule .serialWrite 0x05#8 1 ∧ BadRegisterRule .serialWrite 0x05#8 1 ∧
  ∀ (s : State) (r : Byte) (extra : List Byte) (_ : r.toNat < 16),
    exec (.serialWrite (r :: extra)) s =
      .next { s with
        serialBuf := s.serialBuf ++ [s.regs[r.toNat]]
        trace := s.trace ++ [.serialByte s.regs[r.toNat]]
        pc := s.pc + 2 + (1 + extra.length) }

/-- R183: SPI_WRITE. -/
def Obligations.SpiWriteAppendsByte : Prop :=
  RecordRule .spiWrite 0x18#8 ∧ ShortRule .spiWrite 0x18#8 1 ∧ BadRegisterRule .spiWrite 0x18#8 1 ∧
  ∀ (s : State) (r : Byte) (extra : List Byte) (_ : r.toNat < 16),
    exec (.spiWrite (r :: extra)) s =
      .next { s with
        spiBuf := s.spiBuf ++ [s.regs[r.toNat]]
        trace := s.trace ++ [.spiByte s.regs[r.toNat]]
        pc := s.pc + 2 + (1 + extra.length) }

/-- R186: SCREEN_PRINT, for every ADVANCE: the event carries the cursor from before the advance. -/
def Obligations.ScreenPrintEmitsThenAdvances : Prop :=
  RecordRule .screenPrint 0x19#8 ∧ ShortRule .screenPrint 0x19#8 1 ∧ BadRegisterRule .screenPrint 0x19#8 1 ∧
  ∀ (s : State) (r : Byte) (extra : List Byte) (_ : r.toNat < 16),
    exec (.screenPrint (r :: extra)) s =
      .next { s with
        trace := s.trace ++ [.drawGlyphOrNewline s.regs[r.toNat] s.cursor.x s.cursor.y]
        cursor := Config.advance s.regs[r.toNat] s.cursor.x s.cursor.y
        pc := s.pc + 2 + (1 + extra.length) }

/-- R189: SCREEN_CLEAR, for every CURSOR_HOME. -/
def Obligations.ScreenClearHomesCursor : Prop :=
  RecordRule .screenClear 0x1A#8 ∧
  ∀ (s : State) (ops : List Byte),
    exec (.screenClear ops) s =
      .next { s with
        trace := s.trace ++ [.clearScreen]
        cursor := Config.cursorHome
        pc := s.pc + 2 + ops.length }

/-- R192: DRAW_PIXEL. -/
def Obligations.DrawPixelEmitsRegisterValues : Prop :=
  RecordRule .drawPixel 0x1B#8 ∧ ShortRule .drawPixel 0x1B#8 2 ∧ BadRegisterPairRule .drawPixel 0x1B#8 ∧
  ∀ (s : State) (a b : Byte) (extra : List Byte) (_ : a.toNat < 16) (_ : b.toNat < 16),
    exec (.drawPixel (a :: b :: extra)) s =
      .next { s with
        trace := s.trace ++ [.drawPixel s.regs[a.toNat] s.regs[b.toNat]]
        pc := s.pc + 2 + (2 + extra.length) }

/-- R195: MOVE_X. -/
def Obligations.MoveXSetsCursorX : Prop :=
  RecordRule .moveX 0x1C#8 ∧ ShortRule .moveX 0x1C#8 1 ∧ BadRegisterRule .moveX 0x1C#8 1 ∧
  ∀ (s : State) (r : Byte) (extra : List Byte) (_ : r.toNat < 16),
    exec (.moveX (r :: extra)) s =
      .next { s with
        cursor := { x := s.regs[r.toNat].toNat, y := s.cursor.y }
        trace := s.trace ++ [.cursorMoved s.regs[r.toNat].toNat s.cursor.y]
        pc := s.pc + 2 + (1 + extra.length) }

/-- R198: MOVE_Y. -/
def Obligations.MoveYSetsCursorY : Prop :=
  RecordRule .moveY 0x1D#8 ∧ ShortRule .moveY 0x1D#8 1 ∧ BadRegisterRule .moveY 0x1D#8 1 ∧
  ∀ (s : State) (r : Byte) (extra : List Byte) (_ : r.toNat < 16),
    exec (.moveY (r :: extra)) s =
      .next { s with
        cursor := { x := s.cursor.x, y := s.regs[r.toNat].toNat }
        trace := s.trace ++ [.cursorMoved s.cursor.x s.regs[r.toNat].toNat]
        pc := s.pc + 2 + (1 + extra.length) }

/-! ### Delay and ADC -/

/-- R221: DELAY: the low byte comes first. -/
def Obligations.DelayLoadsCount : Prop :=
  RecordRule .delay 0x16#8 ∧ ShortRule .delay 0x16#8 2 ∧
  ∀ (s : State) (lo hi : Byte) (extra : List Byte),
    ∃ n : BitVec 16, n.toNat = hi.toNat * 256 + lo.toNat ∧
      exec (.delay (lo :: hi :: extra)) s = .next { s with delay := n, pc := s.pc + 2 + (2 + extra.length) }

/-- R222: with count n pending at p, n steps stall, each decrementing the count alone, and the step after them fetches at p;
a stop after any of them leaves the count where it is; where p is past the flash, or the machine was stopped already, the
machine halts with the count as it was. -/
def Obligations.DelayGatesFetch : Prop :=
  ∀ (s : State) (lo hi : Byte) (extra : List Byte), ∃ t : State, exec (.delay (lo :: hi :: extra)) s = .next t ∧
    t.delay.toNat = hi.toNat * 256 + lo.toNat ∧
    (t.running = true → t.pc < Config.flashCapacity →
      (∀ k ≤ t.delay.toNat, ∃ d : BitVec 16, d.toNat = t.delay.toNat - k ∧ t.runSteps k = { t with delay := d } ∧
        ∀ j, (hostAct .stop (t.runSteps k)).1.runSteps j = { t with delay := d, running := false }) ∧
      (∃ u : State, u = t.runSteps t.delay.toNat ∧ u.Ready ∧ u.pc = t.pc)) ∧
    (t.running = false ∨ Config.flashCapacity ≤ t.pc → ∀ k, t.runSteps (k + 1) = { t with running := false })

/-- R226: READ_ADC, for every answer of the ADC function: clamped at 4095, then reduced mod 256; nothing else changes but the
pc. (The answer is the model's free value, and the count of answers drawn is the model's own field, left out of the comparison
here: log entry 6.) -/
def Obligations.ReadAdcClampsThenTruncates : Prop :=
  RecordRule .readAdc 0x17#8 ∧ ShortRule .readAdc 0x17#8 1 ∧ BadRegisterRule .readAdc 0x17#8 1 ∧
  ∀ (s : State) (r : Byte) (extra : List Byte) (h : r.toNat < 16),
    ∃ (t : State) (v : Byte), (v.toNat : Int) = (min s.adcAnswer 4095) % 256 ∧
      exec (.readAdc (r :: extra)) s = .next t ∧
      { t with adcDraws := s.adcDraws } =
        { s with regs := s.regs.set r.toNat v h, pc := s.pc + 2 + (1 + extra.length) }

/-- R225: a step calls the ADC function exactly once where it executes a READ_ADC, and not at all elsewhere (the count of calls
is the model's own field, log entry 6). -/
def Obligations.OnlyReadAdcCallsTheAdc : Prop :=
  ∀ s t : State, step s = .next t →
    ((s.Ready ∧ ∃ ops, (Instr.readAdc ops).WellFormed ∧ s.BytesAtPc (encode (.readAdc ops))) →
      t.adcDraws = s.adcDraws + 1) ∧
    (¬ (s.Ready ∧ ∃ ops, (Instr.readAdc ops).WellFormed ∧ s.BytesAtPc (encode (.readAdc ops))) →
      t.adcDraws = s.adcDraws)

/-! ### Frames -/

/-- The frame of LOAD_IMM, LOAD_GPIO, ADD, SUB and READ_ADC: of the registers only the one the first operand names may change
(R20); flag, delay, pins, outputs, cursor and every byte of memory are unchanged; only READ_ADC calls the ADC. -/
def Obligations.RegisterWritersFrame : Prop :=
  ∀ (ops : List Byte) (s t : State) (i : Instr),
    i = .loadImm ops ∨ i = .loadGpio ops ∨ i = .add ops ∨ i = .sub ops ∨ i = .readAdc ops → exec i s = .next t →
    (∀ q : Fin 16, ops.head?.map BitVec.toNat ≠ some q.val → t.regs[q] = s.regs[q]) ∧
    t.flag = s.flag ∧ t.delay = s.delay ∧ t.gpio = s.gpio ∧ t.gpioMode = s.gpioMode ∧
    t.serialBuf = s.serialBuf ∧ t.spiBuf = s.spiBuf ∧ t.trace = s.trace ∧ t.cursor = s.cursor ∧
    (i ≠ .readAdc ops → t.adcDraws = s.adcDraws) ∧ SameMemory s t ∧ SameControl i s t

/-- The frame of the five jumps: registers, flag, delay, pins, outputs, cursor and every byte of memory are unchanged. -/
def Obligations.JumpsFrame : Prop :=
  ∀ (ops : List Byte) (s t : State) (i : Instr),
    i = .jump ops ∨ i = .jumpEq ops ∨ i = .jumpNeq ops ∨ i = .jumpGt ops ∨ i = .jumpLt ops → exec i s = .next t →
    t.regs = s.regs ∧ t.flag = s.flag ∧ t.delay = s.delay ∧ t.gpio = s.gpio ∧ t.gpioMode = s.gpioMode ∧
    t.serialBuf = s.serialBuf ∧ t.spiBuf = s.spiBuf ∧ t.trace = s.trace ∧ t.cursor = s.cursor ∧
    t.adcDraws = s.adcDraws ∧ SameMemory s t ∧ SameControl i s t

/-- The frame of the seven output instructions: registers, flag, delay, pins and every byte of memory are unchanged; each
buffer is changed by its own instruction alone, the cursor by SCREEN_PRINT, SCREEN_CLEAR, MOVE_X and MOVE_Y alone, and the two
moves keep the other coordinate. -/
def Obligations.OutputInstructionsFrame : Prop :=
  ∀ (ops : List Byte) (s t : State) (i : Instr),
    i = .serialWrite ops ∨ i = .spiWrite ops ∨ i = .screenPrint ops ∨ i = .screenClear ops ∨ i = .drawPixel ops ∨
      i = .moveX ops ∨ i = .moveY ops → exec i s = .next t →
    t.regs = s.regs ∧ t.flag = s.flag ∧ t.delay = s.delay ∧ t.gpio = s.gpio ∧ t.gpioMode = s.gpioMode ∧
    t.adcDraws = s.adcDraws ∧ SameMemory s t ∧ SameControl i s t ∧
    (i ≠ .serialWrite ops → t.serialBuf = s.serialBuf) ∧ (i ≠ .spiWrite ops → t.spiBuf = s.spiBuf) ∧
    (i = .serialWrite ops ∨ i = .spiWrite ops ∨ i = .drawPixel ops → t.cursor = s.cursor) ∧
    (i = .moveX ops → t.cursor.y = s.cursor.y) ∧ (i = .moveY ops → t.cursor.x = s.cursor.x)

/-- The frame of STORE_GPIO, COMPARE and DELAY: registers, outputs, cursor and every byte of memory are unchanged; the pins
are changed by STORE_GPIO alone, and only the pin its second operand names; the flag by COMPARE alone; the delay by DELAY
alone. -/
def Obligations.StoreCompareDelayFrame : Prop :=
  ∀ (ops : List Byte) (s t : State) (i : Instr),
    i = .storeGpio ops ∨ i = .compare ops ∨ i = .delay ops → exec i s = .next t →
    t.regs = s.regs ∧ t.gpioMode = s.gpioMode ∧ t.serialBuf = s.serialBuf ∧ t.spiBuf = s.spiBuf ∧
    t.trace = s.trace ∧ t.cursor = s.cursor ∧ t.adcDraws = s.adcDraws ∧ SameMemory s t ∧ SameControl i s t ∧
    (i ≠ .storeGpio ops → t.gpio = s.gpio) ∧
    (∀ p : Fin 40, ops[1]?.map BitVec.toNat ≠ some p.val → t.gpio[p] = s.gpio[p]) ∧
    (i ≠ .compare ops → t.flag = s.flag) ∧ (i ≠ .delay ops → t.delay = s.delay)

/-! ### Rules of the whole machine -/

/-- R24: a step changes the flag only by executing a COMPARE, which never leaves it UNSET; and an instruction that is no
conditional jump does not read it: with another flag value, it does the same to all else. -/
def Obligations.FlagWrittenOnlyByCompare : Prop :=
  (∀ s t : State, step s = .next t → t.flag ≠ s.flag →
    t.flag ≠ .unset ∧ s.Ready ∧ ∃ ops, s.BytesAtPc (encode (.compare ops))) ∧
  ∀ (i : Instr) (s t : State) (f : CompareFlag), conditional i = false → exec i s = .next t →
    ∃ u, exec i { s with flag := f } = .next u ∧ { u with flag := t.flag } = t

/-- R57: no step and no host action but a load writes program memory, and nothing at all writes RAM. -/
def Obligations.OnlyLoadWritesMemory : Prop :=
  (∀ s t : State, step s = .next t → SameMemory s t) ∧
  (∀ (a : HostAction) (s : State), (hostAct a s).1.ram = s.ram) ∧
  ∀ (a : HostAction) (s : State), (∀ image g, a = .load image g → Config.flashCapacity < image.length) →
    SameMemory s (hostAct a s).1

/-- R36, R178: an emitting instruction that executes appends exactly one event; one that faults, and every other instruction,
appends none. -/
def Obligations.EmittersAppendOneEvent : Prop :=
  ∀ (i : Instr) (s t : State), exec i s = .next t →
    (emits i = true → i.Enough → i.RegistersValid → ∃ e, t.trace = s.trace ++ [e]) ∧
    (emits i = false ∨ ¬ i.Enough ∨ ¬ i.RegistersValid → t.trace = s.trace)

/-- R35, R36: over any number of steps, the buffers and the trace only grow at the end. -/
def Obligations.OutputsOnlyGrow : Prop :=
  ∀ (n : Nat) (s : State), s.serialBuf <+: (s.runSteps n).serialBuf ∧ s.spiBuf <+: (s.runSteps n).spiBuf ∧
    s.trace <+: (s.runSteps n).trace

/-- R43, R58, R178: what the block computes does not depend on what it has sent out, nor on the cursor, the pin modes or RAM:
two runs that agree on all else go on agreeing on it. -/
def Obligations.ComputationIgnoresOutputs : Prop :=
  ∀ (n : Nat) (s t : State), SameCore s t → SameCore (s.runSteps n) (t.runSteps n)

/-- R34, R42: no number of steps reads or writes a pin's mode or a byte of RAM. -/
def Obligations.PinModesAndRamUnobservable : Prop :=
  ∀ (n : Nat) (s : State) (modes : Vector PinMode 40) (ram : Memory),
    State.runSteps n { s with gpioMode := modes, ram := ram } = { s.runSteps n with gpioMode := modes, ram := ram }

/-- Every step keeps the invariant: exact image, RAM in range, a fault stops the machine at its opcode byte, the buffers are
the trace's bytes, and the pc is bounded. -/
def Obligations.StepKeepsConsistent : Prop :=
  ∀ s t : State, s.Consistent → step s = .next t → t.Consistent

/-- Every host action keeps the invariant. -/
def Obligations.HostActionsKeepConsistent : Prop :=
  ∀ (a : HostAction) (s : State), s.Consistent → (hostAct a s).1.Consistent

/-- The state after reset meets the invariant. -/
def Obligations.ResetIsConsistent : Prop := State.reset.Consistent

/-! ### Reset and the host -/

/-- R280, R281: what a successful load leaves, from any state; and the first step after the load of an empty image. -/
def Obligations.LoadEstablishesFreshState : Prop :=
  ∀ (image : List Byte) (g : Vector Bool 40) (s : State), image.length ≤ Config.flashCapacity →
    ∃ t : State, hostAct (.load image g) s = (t, .load .success) ∧
      t.pc = 0 ∧ (∀ r : Fin 16, t.regs[r] = 0#8) ∧ t.flag = .unset ∧ t.serialBuf = [] ∧ t.spiBuf = [] ∧
      t.cursor = Config.cursorHome ∧ t.trace = [] ∧ t.delay = 0#16 ∧ t.running = true ∧ t.fault = none ∧
      t.gpio = g ∧ t.gpioMode = s.gpioMode ∧ t.ram = s.ram ∧ t.imageLen = image.length ∧
      (∀ k, t.memRead k = image[k]?) ∧ (∀ k, t.flash.read k = image[k]?) ∧
      (image = [] → step t = .next (faultedAt t .fetchUnwritten none))

/-- R282: a longer image is rejected and no state changes. -/
def Obligations.OversizedLoadRejected : Prop :=
  ∀ (image : List Byte) (g : Vector Bool 40) (s : State), Config.flashCapacity < image.length →
    hostAct (.load image g) s = (s, .load .capacityExceeded)

/-- The model's choice of State.reset (log entry 10): it is what a load of the empty image leaves, from any state with the
model's own values in the fields no load writes (log entries 5, 6, 8). -/
def Obligations.ResetIsEmptyLoad : Prop :=
  ∀ s : State, s.gpioMode = Config.gpioMode → s.ram = [] → s.adcDraws = 0 →
    s.load [] Config.gpioAtLoad = (State.reset, .success)

/-- R291, R292, R293: a stop clears `running` alone, records no fault, and every later step changes nothing; a compile zeroes
the registers and changes nothing else; a snapshot shows the pins and the two buffers and changes no state. -/
def Obligations.StopCompileSnapshotEffects : Prop :=
  (∀ s : State, hostAct .stop s = ({ s with running := false }, .nothing)) ∧
  (∀ (s : State) (n : Nat), (hostAct .stop s).1.runSteps n = (hostAct .stop s).1) ∧
  (∀ s : State, ∃ regs : Vector Byte 16, (∀ r : Fin 16, regs[r] = 0#8) ∧
    hostAct .compile s = ({ s with regs := regs }, .nothing)) ∧
  ∀ s : State, hostAct .snapshot s = (s, .snapshot { gpio := s.gpio, serialBuf := s.serialBuf, spiBuf := s.spiBuf })

/-- R295: run(n) is n steps; a batch cut off once the machine has halted leaves the same state. -/
def Obligations.RunIsRepeatedStep : Prop :=
  (∀ (m n : Nat) (s : State), (hostAct (.run (m + n)) s).1 = State.runSteps n (s.runSteps m)) ∧
  (∀ s t : State, step s = .next t → (hostAct (.run 1) s).1 = t ∧ (hostAct .step s).1 = t) ∧
  ∀ (m n : Nat) (s : State), (s.runSteps m).running = false → s.runSteps (m + n) = s.runSteps m

/-- R100, R304: how a step ends: halted, stalled, a fault with the record the state then holds, or executed. -/
def Obligations.StepReportNamesOutcome : Prop :=
  ∀ s : State,
    (s.running = false ∨ Config.flashCapacity ≤ s.pc → s.stepReport = .halted) ∧
    (s.running = true → s.pc < Config.flashCapacity → 0 < s.delay.toNat → s.stepReport = .stalled) ∧
    (s.Ready → ∃ t, step s = .next t ∧
      ((t.running = true ∧ s.stepReport = .executed) ∨
        ∃ r, t.running = false ∧ t.fault = some r ∧ s.stepReport = .faulted r))
end

