-- ==== Sys2Proof/Laws/Decode.lean ====
section
/-! SUPPORT. The laws of the decoder's parts. -/

namespace Sys2Proof

/-- A selected constructor carries the operands it is given and has the opcode that selected it. -/
theorem selectOpcode_spec {opc : Byte} {make : List Byte → Instr} (h : selectOpcode opc = some make) (ops : List Byte) :
    (make ops).operands = ops ∧ (make ops).opcode = opc := by
  unfold selectOpcode at h
  split at h <;> first
    | (cases h; exact ⟨rfl, rfl⟩)
    | cases h

/-- Every instruction's opcode selects its constructor. -/
theorem selectOpcode_opcode (i : Instr) : ∃ make, selectOpcode i.opcode = some make ∧ make i.operands = i := by
  cases i <;> exact ⟨_, rfl, rfl⟩

/-- What `takeExact` answers. -/
theorem takeExact_eq_some {n : Nat} {bs xs ys : List Byte} :
    takeExact n bs = some (xs, ys) ↔ bs = xs ++ ys ∧ xs.length = n := by
  induction n generalizing bs xs with
  | zero =>
    simp only [takeExact, Option.some.injEq, Prod.mk.injEq]
    constructor
    · rintro ⟨rfl, rfl⟩
      simp
    · rintro ⟨rfl, h⟩
      simp [List.length_eq_zero_iff.mp h]
  | succ n ih =>
    cases bs with
    | nil =>
      simp only [takeExact, reduceCtorEq, false_iff]
      rintro ⟨h, hl⟩
      have := congrArg List.length h
      simp at this
      omega
    | cons b bs =>
      simp only [takeExact, Option.map_eq_some_iff, Prod.exists, Prod.mk.injEq]
      constructor
      · rintro ⟨as, cs, h, rfl, rfl⟩
        obtain ⟨rfl, hl⟩ := ih.mp h
        simp [hl]
      · rintro ⟨h, hl⟩
        cases xs with
        | nil => simp at hl
        | cons x xs =>
          simp only [List.cons_append, List.cons.injEq] at h
          obtain ⟨rfl, rfl⟩ := h
          exact ⟨xs, ys, ih.mpr ⟨rfl, by simpa using hl⟩, rfl, rfl⟩

/-- `takeExact` refuses exactly where there are too few bytes. -/
theorem takeExact_eq_none {n : Nat} {bs : List Byte} : takeExact n bs = none ↔ bs.length < n := by
  induction n generalizing bs with
  | zero => simp [takeExact]
  | succ n ih => cases bs <;> simp [takeExact, ih]

/-- The length byte of an operand list that fits it. -/
theorem lengthByte_toNat {n : Nat} (h : n ≤ 255) : (BitVec.ofNat 8 n).toNat = n := by
  rw [BitVec.toNat_ofNat]
  omega

/-- Everything `decode` can answer, said once. -/
theorem decode_cases (bs : List Byte) :
    (bs = [] ∧ decode bs = .error .noOpcode) ∨
    (∃ opc rest, bs = opc :: rest ∧ selectOpcode opc = none ∧ decode bs = .error (.unknownOpcode opc)) ∨
    (∃ opc rest make, bs = opc :: rest ∧ selectOpcode opc = some make ∧
      (rest = [] ∨ ∃ len body, rest = len :: body ∧ body.length < len.toNat) ∧ decode bs = .error (.truncated opc)) ∨
    (∃ opc len ops after make, bs = opc :: len :: (ops ++ after) ∧ selectOpcode opc = some make ∧
      ops.length = len.toNat ∧ decode bs = .ok (make ops, after)) := by
  cases bs with
  | nil => exact .inl ⟨rfl, rfl⟩
  | cons opc rest =>
    cases hs : selectOpcode opc with
    | none => exact .inr (.inl ⟨opc, rest, rfl, hs, by simp [decode, hs]⟩)
    | some make =>
      cases rest with
      | nil => exact .inr (.inr (.inl ⟨opc, [], make, rfl, hs, .inl rfl, by simp [decode, hs]⟩))
      | cons len body =>
        cases ht : takeExact len.toNat body with
        | none =>
          exact .inr (.inr (.inl ⟨opc, _, make, rfl, hs, .inr ⟨len, body, rfl, takeExact_eq_none.mp ht⟩,
            by simp [decode, hs, ht]⟩))
        | some p =>
          obtain ⟨ops, after⟩ := p
          obtain ⟨rfl, hl⟩ := takeExact_eq_some.mp ht
          exact .inr (.inr (.inr ⟨opc, len, ops, after, make, rfl, hs, hl, by simp [decode, hs, ht]⟩))

end Sys2Proof
end

