-- ==== Sys2Proof/Laws/Memory.lean ====
section
/-! SUPPORT. The laws of memory: reading after writing, the canonical form, and what a loaded image holds. -/

namespace Sys2Proof.Machine

@[simp] theorem Memory.read_nil (a : Nat) : Memory.read [] a = none := rfl

theorem Memory.wf_nil : Memory.wf [] := List.Pairwise.nil

/-- The cells of a written memory are the written one and cells that were there. -/
theorem Memory.mem_write {m : Memory} {a : Nat} {v : Byte} {c : Host.Cell} (h : c ∈ m.write a v) : c = (a, v) ∨ c ∈ m := by
  induction m with
  | nil => simpa [Memory.write] using h
  | cons d rest ih =>
    obtain ⟨k, b⟩ := d
    unfold Memory.write at h
    split at h
    · simpa using h
    · split at h
      · rcases List.mem_cons.mp h with h | h
        · exact .inl h
        · exact .inr (List.mem_cons_of_mem _ h)
      · rcases List.mem_cons.mp h with h | h
        · exact .inr (by simp [h])
        · rcases ih h with h | h
          · exact .inl h
          · exact .inr (List.mem_cons_of_mem _ h)

/-- A write keeps the canonical form. -/
theorem Memory.wf_write {m : Memory} (a : Nat) (v : Byte) (h : m.wf) : (m.write a v).wf := by
  induction m with
  | nil => simp [Memory.write]
  | cons d rest ih =>
    obtain ⟨k, b⟩ := d
    obtain ⟨hk, hrest⟩ := List.pairwise_cons.mp h
    unfold Memory.write
    split
    · refine List.pairwise_cons.mpr ⟨fun c hc => ?_, h⟩
      rcases List.mem_cons.mp hc with rfl | hc
      · assumption
      · exact lt_trans ‹a < k› (hk c hc)
    · split
      · rename_i hak
        exact List.pairwise_cons.mpr ⟨fun c hc => by simpa [hak] using hk c hc, hrest⟩
      · refine List.pairwise_cons.mpr ⟨fun c hc => ?_, ih hrest⟩
        rcases Memory.mem_write hc with rfl | hc
        · show k < a
          omega
        · exact hk c hc

/-- Reading after a write. -/
theorem Memory.read_write (m : Memory) (a : Nat) (v : Byte) (o : Nat) :
    (m.write a v).read o = if o = a then some v else m.read o := by
  induction m with
  | nil =>
    simp only [Memory.write, Memory.read, Memory.unlisted]
    split_ifs <;> first | rfl | omega
  | cons d rest ih =>
    obtain ⟨k, b⟩ := d
    unfold Memory.write
    split
    · simp only [Memory.read, Memory.unlisted]
      split_ifs <;> first | rfl | omega
    · split
      · simp only [Memory.read, Memory.unlisted]
        split_ifs <;> first | rfl | omega
      · simp only [Memory.read, Memory.unlisted, ih]
        split_ifs <;> first | rfl | omega

/-- Writing bytes keeps the canonical form. -/
theorem Memory.wf_writeBytes {m : Memory} (a : Nat) (bs : List Byte) (h : m.wf) : (m.writeBytes a bs).wf := by
  induction bs generalizing a with
  | nil => exact h
  | cons b bs ih => exact Memory.wf_write a b (ih (a + 1))

/-- Reading after writing bytes. -/
theorem Memory.read_writeBytes (m : Memory) (a : Nat) (bs : List Byte) (o : Nat) :
    (m.writeBytes a bs).read o = if a ≤ o ∧ o < a + bs.length then bs[o - a]? else m.read o := by
  induction bs generalizing a with
  | nil =>
    rw [if_neg (by simp)]
    rfl
  | cons b bs ih =>
    simp only [Memory.writeBytes, Memory.read_write, ih, List.length_cons]
    by_cases h : o = a
    · subst h
      simp
    · rw [if_neg h]
      by_cases h2 : a + 1 ≤ o ∧ o < a + 1 + bs.length
      · rw [if_pos h2, if_pos (by omega), show o - a = (o - (a + 1)) + 1 by omega, List.getElem?_cons_succ]
      · rw [if_neg h2, if_neg (by omega)]

/-- Every cell of an image's memory lies in the image. -/
theorem Memory.mem_ofBytes {a : Nat} {bs : List Byte} {c : Host.Cell} (h : c ∈ Memory.ofBytes a bs) :
    a ≤ c.1 ∧ c.1 < a + bs.length := by
  induction bs generalizing a with
  | nil => simp [Memory.ofBytes] at h
  | cons b bs ih =>
    rcases List.mem_cons.mp h with rfl | h
    · simp
    · have := ih h
      simp only [List.length_cons]
      omega

/-- An image's memory is canonical. -/
theorem Memory.wf_ofBytes (a : Nat) (bs : List Byte) : (Memory.ofBytes a bs).wf := by
  induction bs generalizing a with
  | nil => exact Memory.wf_nil
  | cons b bs ih =>
    exact List.pairwise_cons.mpr ⟨fun c hc => (by have := Memory.mem_ofBytes hc; show a < c.1; omega), ih (a + 1)⟩

/-- An image's memory reads as the image, and holds no value elsewhere. -/
theorem Memory.read_ofBytes (a : Nat) (bs : List Byte) (o : Nat) :
    (Memory.ofBytes a bs).read o = if a ≤ o then bs[o - a]? else none := by
  induction bs generalizing a with
  | nil => simp [Memory.ofBytes]
  | cons b bs ih =>
    simp only [Memory.ofBytes, Memory.read, Memory.unlisted, ih]
    split_ifs with h1 h2 h3 h4 h5
    all_goals first
      | omega
      | rfl
      | (subst h3; simp)
      | rw [show o - a = (o - (a + 1)) + 1 by omega, List.getElem?_cons_succ]

/-- `State.reset`'s memories are canonical. -/
theorem State.reset_memory_wf : State.reset.flash.wf ∧ State.reset.ram.wf := ⟨Memory.wf_nil, Memory.wf_nil⟩

/-- A load leaves program memory canonical. -/
theorem State.loaded_flash_wf (s : State) (image : List Byte) (g : Vector Bool Config.gpioPins) :
    (s.loaded image g).flash.wf := Memory.wf_ofBytes 0 image

/-- Placing bytes keeps program memory canonical. -/
theorem State.placeBytes_flash_wf {s : State} (bs : List Byte) (h : s.flash.wf) : (s.placeBytes bs).flash.wf :=
  Memory.wf_writeBytes _ _ h

end Sys2Proof.Machine
end

