-- ==== Sys2Proof/Laws/Operands.lean ====
section
/-! SUPPORT. What each operand form answers, said once, and the values of the value operations. -/

namespace Sys2Proof.Machine

theorem registerOperand_ok {r : Byte} (h : r.toNat < Config.nregs) : registerOperand r = .ok ⟨r.toNat, h⟩ := dif_pos h

theorem registerOperand_bad {r : Byte} (h : Config.nregs ≤ r.toNat) : registerOperand r = .error .badRegister :=
  dif_neg (by omega)

theorem pinOperand_some {p : Byte} (h : p.toNat < Config.gpioPins) : pinOperand p = some ⟨p.toNat, h⟩ := dif_pos h

theorem pinOperand_none {p : Byte} (h : Config.gpioPins ≤ p.toNat) : pinOperand p = none := dif_neg (by omega)

/-- Everything `registerOperand` can answer. -/
theorem registerOperand_cases (r : Byte) :
    (∃ h : r.toNat < Config.nregs, registerOperand r = .ok ⟨r.toNat, h⟩) ∨
    (Config.nregs ≤ r.toNat ∧ registerOperand r = .error .badRegister) := by
  by_cases h : r.toNat < Config.nregs
  · exact .inl ⟨h, registerOperand_ok h⟩
  · exact .inr ⟨by omega, registerOperand_bad (by omega)⟩

/-- Everything format R can answer. -/
theorem operandsR_cases (ops : List Byte) :
    (ops.length < 1 ∧ operandsR ops = .error .operandsShort) ∨
    (∃ r extra, ops = r :: extra ∧ Config.nregs ≤ r.toNat ∧ operandsR ops = .error .badRegister) ∨
    (∃ r extra, ∃ h : r.toNat < Config.nregs, ops = r :: extra ∧ operandsR ops = .ok ⟨r.toNat, h⟩) := by
  match ops with
  | [] => exact .inl ⟨by simp, rfl⟩
  | r :: extra =>
    rcases registerOperand_cases r with ⟨h, e⟩ | ⟨h, e⟩
    · exact .inr (.inr ⟨r, extra, h, rfl, by simp [operandsR, e]⟩)
    · exact .inr (.inl ⟨r, extra, rfl, h, by simp [operandsR, e]⟩)

/-- Everything format A can answer. -/
theorem operandsA_cases (ops : List Byte) :
    (ops.length < 1 ∧ operandsA ops = .error .operandsShort) ∨
    (∃ addr extra, ops = addr :: extra ∧ operandsA ops = .ok addr.toNat) := by
  match ops with
  | [] => exact .inl ⟨by simp, rfl⟩
  | addr :: extra => exact .inr ⟨addr, extra, rfl, rfl⟩

/-- Everything format RR can answer. -/
theorem operandsRR_cases (ops : List Byte) :
    (ops.length < 2 ∧ operandsRR ops = .error .operandsShort) ∨
    (∃ a b extra, ops = a :: b :: extra ∧ (Config.nregs ≤ a.toNat ∨ Config.nregs ≤ b.toNat) ∧
      operandsRR ops = .error .badRegister) ∨
    (∃ a b extra, ∃ ha : a.toNat < Config.nregs, ∃ hb : b.toNat < Config.nregs, ops = a :: b :: extra ∧
      operandsRR ops = .ok (⟨a.toNat, ha⟩, ⟨b.toNat, hb⟩)) := by
  match ops with
  | [] => exact .inl ⟨by simp, rfl⟩
  | [_] => exact .inl ⟨by simp, rfl⟩
  | a :: b :: extra =>
    rcases registerOperand_cases a with ⟨ha, ea⟩ | ⟨ha, ea⟩
    · rcases registerOperand_cases b with ⟨hb, eb⟩ | ⟨hb, eb⟩
      · exact .inr (.inr ⟨a, b, extra, ha, hb, rfl, by simp [operandsRR, ea, eb]⟩)
      · exact .inr (.inl ⟨a, b, extra, rfl, .inr hb, by simp [operandsRR, ea, eb]⟩)
    · exact .inr (.inl ⟨a, b, extra, rfl, .inl ha, by simp [operandsRR, ea]⟩)

/-- Everything format RI can answer. -/
theorem operandsRI_cases (ops : List Byte) :
    (ops.length < 2 ∧ operandsRI ops = .error .operandsShort) ∨
    (∃ r v extra, ops = r :: v :: extra ∧ Config.nregs ≤ r.toNat ∧ operandsRI ops = .error .badRegister) ∨
    (∃ r v extra, ∃ h : r.toNat < Config.nregs, ops = r :: v :: extra ∧ operandsRI ops = .ok (⟨r.toNat, h⟩, v)) := by
  match ops with
  | [] => exact .inl ⟨by simp, rfl⟩
  | [_] => exact .inl ⟨by simp, rfl⟩
  | r :: v :: extra =>
    rcases registerOperand_cases r with ⟨h, e⟩ | ⟨h, e⟩
    · exact .inr (.inr ⟨r, v, extra, h, rfl, by simp [operandsRI, e]⟩)
    · exact .inr (.inl ⟨r, v, extra, rfl, h, by simp [operandsRI, e]⟩)

/-- Everything format II can answer. -/
theorem operandsII_cases (ops : List Byte) :
    (ops.length < 2 ∧ operandsII ops = .error .operandsShort) ∨
    (∃ lo hi extra, ops = lo :: hi :: extra ∧ operandsII ops = .ok (lo, hi)) := by
  match ops with
  | [] => exact .inl ⟨by simp, rfl⟩
  | [_] => exact .inl ⟨by simp, rfl⟩
  | lo :: hi :: extra => exact .inr ⟨lo, hi, extra, rfl, rfl⟩

/-- DELAY's count is its two bytes, the second the high one. -/
theorem delayCount_toNat (lo hi : Byte) : (delayCount lo hi).toNat = hi.toNat * 256 + lo.toNat := by
  have := lo.isLt
  have := hi.isLt
  simp only [delayCount, BitVec.toNat_ofNat]
  omega

/-- `wrap8` is the Euclidean remainder mod 256. -/
theorem wrap8_toNat (v : Int) : ((wrap8 v).toNat : Int) = v % 256 := by
  simp only [wrap8, BitVec.toNat_ofInt]
  norm_num
  omega

/-- Bit 0 is the parity. -/
theorem bit0_eq (v : Byte) : bit0 v = decide (v.toNat % 2 = 1) := by
  simp [bit0, BitVec.getLsbD, Nat.testBit_zero]

/-- COMPARE's flag by the order of the unsigned values. -/
theorem compareFlag_eq (a b : Byte) :
    compareFlag a b = if a.toNat < b.toNat then .minus else if a.toNat = b.toNat then .zero else .plus := by
  unfold compareFlag signFlag
  split_ifs <;> first | rfl | omega

end Sys2Proof.Machine
end

