-- ==== Sys2Proof/Laws/PerInstr.lean ====
section
/-! SUPPORT. Statements made once per instruction. -/

namespace Sys2Proof.Laws.OpcodeSelects

/-- The opcode byte the encoder writes is the one the decoder selects the instruction by, and the operands pass through
(30_encoding.md R80, R82). -/
def Statement (i : Instr) : Prop := (selectOpcode i.opcode).map (fun make => make i.operands) = some i

theorem loadImm (ops : List Byte) : Statement (.loadImm ops) := rfl
theorem storeGpio (ops : List Byte) : Statement (.storeGpio ops) := rfl
theorem loadGpio (ops : List Byte) : Statement (.loadGpio ops) := rfl
theorem jump (ops : List Byte) : Statement (.jump ops) := rfl
theorem serialWrite (ops : List Byte) : Statement (.serialWrite ops) := rfl
theorem add (ops : List Byte) : Statement (.add ops) := rfl
theorem sub (ops : List Byte) : Statement (.sub ops) := rfl
theorem compare (ops : List Byte) : Statement (.compare ops) := rfl
theorem jumpEq (ops : List Byte) : Statement (.jumpEq ops) := rfl
theorem jumpNeq (ops : List Byte) : Statement (.jumpNeq ops) := rfl
theorem delay (ops : List Byte) : Statement (.delay ops) := rfl
theorem readAdc (ops : List Byte) : Statement (.readAdc ops) := rfl
theorem spiWrite (ops : List Byte) : Statement (.spiWrite ops) := rfl
theorem screenPrint (ops : List Byte) : Statement (.screenPrint ops) := rfl
theorem screenClear (ops : List Byte) : Statement (.screenClear ops) := rfl
theorem drawPixel (ops : List Byte) : Statement (.drawPixel ops) := rfl
theorem moveX (ops : List Byte) : Statement (.moveX ops) := rfl
theorem moveY (ops : List Byte) : Statement (.moveY ops) := rfl
theorem jumpGt (ops : List Byte) : Statement (.jumpGt ops) := rfl
theorem jumpLt (ops : List Byte) : Statement (.jumpLt ops) := rfl

end Sys2Proof.Laws.OpcodeSelects
end

