-- ==== Sys2Proof/Laws/State.lean ====
section
/-! SUPPORT. One lemma per field per update of the state: no later proof unfolds a record update. -/

namespace Sys2Proof.Machine

variable (s : State)

@[simp] theorem State.setReg_regs (r : Reg) (v : Byte) : (s.setReg r v).regs = s.regs.set r v := rfl
@[simp] theorem State.setReg_flag (r : Reg) (v : Byte) : (s.setReg r v).flag = s.flag := rfl
@[simp] theorem State.setReg_pc (r : Reg) (v : Byte) : (s.setReg r v).pc = s.pc := rfl
@[simp] theorem State.setReg_running (r : Reg) (v : Byte) : (s.setReg r v).running = s.running := rfl
@[simp] theorem State.setReg_fault (r : Reg) (v : Byte) : (s.setReg r v).fault = s.fault := rfl
@[simp] theorem State.setReg_delay (r : Reg) (v : Byte) : (s.setReg r v).delay = s.delay := rfl
@[simp] theorem State.setReg_gpio (r : Reg) (v : Byte) : (s.setReg r v).gpio = s.gpio := rfl
@[simp] theorem State.setReg_gpioMode (r : Reg) (v : Byte) : (s.setReg r v).gpioMode = s.gpioMode := rfl
@[simp] theorem State.setReg_serialBuf (r : Reg) (v : Byte) : (s.setReg r v).serialBuf = s.serialBuf := rfl
@[simp] theorem State.setReg_spiBuf (r : Reg) (v : Byte) : (s.setReg r v).spiBuf = s.spiBuf := rfl
@[simp] theorem State.setReg_trace (r : Reg) (v : Byte) : (s.setReg r v).trace = s.trace := rfl
@[simp] theorem State.setReg_cursor (r : Reg) (v : Byte) : (s.setReg r v).cursor = s.cursor := rfl
@[simp] theorem State.setReg_flash (r : Reg) (v : Byte) : (s.setReg r v).flash = s.flash := rfl
@[simp] theorem State.setReg_imageLen (r : Reg) (v : Byte) : (s.setReg r v).imageLen = s.imageLen := rfl
@[simp] theorem State.setReg_ram (r : Reg) (v : Byte) : (s.setReg r v).ram = s.ram := rfl
@[simp] theorem State.setReg_adcDraws (r : Reg) (v : Byte) : (s.setReg r v).adcDraws = s.adcDraws := rfl

@[simp] theorem State.setFlag_regs (f : CompareFlag) : (s.setFlag f).regs = s.regs := rfl
@[simp] theorem State.setFlag_flag (f : CompareFlag) : (s.setFlag f).flag = f := rfl
@[simp] theorem State.setFlag_pc (f : CompareFlag) : (s.setFlag f).pc = s.pc := rfl
@[simp] theorem State.setFlag_running (f : CompareFlag) : (s.setFlag f).running = s.running := rfl
@[simp] theorem State.setFlag_fault (f : CompareFlag) : (s.setFlag f).fault = s.fault := rfl
@[simp] theorem State.setFlag_delay (f : CompareFlag) : (s.setFlag f).delay = s.delay := rfl
@[simp] theorem State.setFlag_gpio (f : CompareFlag) : (s.setFlag f).gpio = s.gpio := rfl
@[simp] theorem State.setFlag_gpioMode (f : CompareFlag) : (s.setFlag f).gpioMode = s.gpioMode := rfl
@[simp] theorem State.setFlag_serialBuf (f : CompareFlag) : (s.setFlag f).serialBuf = s.serialBuf := rfl
@[simp] theorem State.setFlag_spiBuf (f : CompareFlag) : (s.setFlag f).spiBuf = s.spiBuf := rfl
@[simp] theorem State.setFlag_trace (f : CompareFlag) : (s.setFlag f).trace = s.trace := rfl
@[simp] theorem State.setFlag_cursor (f : CompareFlag) : (s.setFlag f).cursor = s.cursor := rfl
@[simp] theorem State.setFlag_flash (f : CompareFlag) : (s.setFlag f).flash = s.flash := rfl
@[simp] theorem State.setFlag_imageLen (f : CompareFlag) : (s.setFlag f).imageLen = s.imageLen := rfl
@[simp] theorem State.setFlag_ram (f : CompareFlag) : (s.setFlag f).ram = s.ram := rfl
@[simp] theorem State.setFlag_adcDraws (f : CompareFlag) : (s.setFlag f).adcDraws = s.adcDraws := rfl

@[simp] theorem State.setDelay_regs (n : BitVec 16) : (s.setDelay n).regs = s.regs := rfl
@[simp] theorem State.setDelay_flag (n : BitVec 16) : (s.setDelay n).flag = s.flag := rfl
@[simp] theorem State.setDelay_pc (n : BitVec 16) : (s.setDelay n).pc = s.pc := rfl
@[simp] theorem State.setDelay_running (n : BitVec 16) : (s.setDelay n).running = s.running := rfl
@[simp] theorem State.setDelay_fault (n : BitVec 16) : (s.setDelay n).fault = s.fault := rfl
@[simp] theorem State.setDelay_delay (n : BitVec 16) : (s.setDelay n).delay = n := rfl
@[simp] theorem State.setDelay_gpio (n : BitVec 16) : (s.setDelay n).gpio = s.gpio := rfl
@[simp] theorem State.setDelay_gpioMode (n : BitVec 16) : (s.setDelay n).gpioMode = s.gpioMode := rfl
@[simp] theorem State.setDelay_serialBuf (n : BitVec 16) : (s.setDelay n).serialBuf = s.serialBuf := rfl
@[simp] theorem State.setDelay_spiBuf (n : BitVec 16) : (s.setDelay n).spiBuf = s.spiBuf := rfl
@[simp] theorem State.setDelay_trace (n : BitVec 16) : (s.setDelay n).trace = s.trace := rfl
@[simp] theorem State.setDelay_cursor (n : BitVec 16) : (s.setDelay n).cursor = s.cursor := rfl
@[simp] theorem State.setDelay_flash (n : BitVec 16) : (s.setDelay n).flash = s.flash := rfl
@[simp] theorem State.setDelay_imageLen (n : BitVec 16) : (s.setDelay n).imageLen = s.imageLen := rfl
@[simp] theorem State.setDelay_ram (n : BitVec 16) : (s.setDelay n).ram = s.ram := rfl
@[simp] theorem State.setDelay_adcDraws (n : BitVec 16) : (s.setDelay n).adcDraws = s.adcDraws := rfl

@[simp] theorem State.setPin_regs (p : Pin) (b : Bool) : (s.setPin p b).regs = s.regs := rfl
@[simp] theorem State.setPin_flag (p : Pin) (b : Bool) : (s.setPin p b).flag = s.flag := rfl
@[simp] theorem State.setPin_pc (p : Pin) (b : Bool) : (s.setPin p b).pc = s.pc := rfl
@[simp] theorem State.setPin_running (p : Pin) (b : Bool) : (s.setPin p b).running = s.running := rfl
@[simp] theorem State.setPin_fault (p : Pin) (b : Bool) : (s.setPin p b).fault = s.fault := rfl
@[simp] theorem State.setPin_delay (p : Pin) (b : Bool) : (s.setPin p b).delay = s.delay := rfl
@[simp] theorem State.setPin_gpio (p : Pin) (b : Bool) : (s.setPin p b).gpio = s.gpio.set p b := rfl
@[simp] theorem State.setPin_gpioMode (p : Pin) (b : Bool) : (s.setPin p b).gpioMode = s.gpioMode := rfl
@[simp] theorem State.setPin_serialBuf (p : Pin) (b : Bool) : (s.setPin p b).serialBuf = s.serialBuf := rfl
@[simp] theorem State.setPin_spiBuf (p : Pin) (b : Bool) : (s.setPin p b).spiBuf = s.spiBuf := rfl
@[simp] theorem State.setPin_trace (p : Pin) (b : Bool) : (s.setPin p b).trace = s.trace := rfl
@[simp] theorem State.setPin_cursor (p : Pin) (b : Bool) : (s.setPin p b).cursor = s.cursor := rfl
@[simp] theorem State.setPin_flash (p : Pin) (b : Bool) : (s.setPin p b).flash = s.flash := rfl
@[simp] theorem State.setPin_imageLen (p : Pin) (b : Bool) : (s.setPin p b).imageLen = s.imageLen := rfl
@[simp] theorem State.setPin_ram (p : Pin) (b : Bool) : (s.setPin p b).ram = s.ram := rfl
@[simp] theorem State.setPin_adcDraws (p : Pin) (b : Bool) : (s.setPin p b).adcDraws = s.adcDraws := rfl

@[simp] theorem State.setCursor_regs (c : Cursor) : (s.setCursor c).regs = s.regs := rfl
@[simp] theorem State.setCursor_flag (c : Cursor) : (s.setCursor c).flag = s.flag := rfl
@[simp] theorem State.setCursor_pc (c : Cursor) : (s.setCursor c).pc = s.pc := rfl
@[simp] theorem State.setCursor_running (c : Cursor) : (s.setCursor c).running = s.running := rfl
@[simp] theorem State.setCursor_fault (c : Cursor) : (s.setCursor c).fault = s.fault := rfl
@[simp] theorem State.setCursor_delay (c : Cursor) : (s.setCursor c).delay = s.delay := rfl
@[simp] theorem State.setCursor_gpio (c : Cursor) : (s.setCursor c).gpio = s.gpio := rfl
@[simp] theorem State.setCursor_gpioMode (c : Cursor) : (s.setCursor c).gpioMode = s.gpioMode := rfl
@[simp] theorem State.setCursor_serialBuf (c : Cursor) : (s.setCursor c).serialBuf = s.serialBuf := rfl
@[simp] theorem State.setCursor_spiBuf (c : Cursor) : (s.setCursor c).spiBuf = s.spiBuf := rfl
@[simp] theorem State.setCursor_trace (c : Cursor) : (s.setCursor c).trace = s.trace := rfl
@[simp] theorem State.setCursor_cursor (c : Cursor) : (s.setCursor c).cursor = c := rfl
@[simp] theorem State.setCursor_flash (c : Cursor) : (s.setCursor c).flash = s.flash := rfl
@[simp] theorem State.setCursor_imageLen (c : Cursor) : (s.setCursor c).imageLen = s.imageLen := rfl
@[simp] theorem State.setCursor_ram (c : Cursor) : (s.setCursor c).ram = s.ram := rfl
@[simp] theorem State.setCursor_adcDraws (c : Cursor) : (s.setCursor c).adcDraws = s.adcDraws := rfl

@[simp] theorem State.emit_regs (e : Event) : (s.emit e).regs = s.regs := rfl
@[simp] theorem State.emit_flag (e : Event) : (s.emit e).flag = s.flag := rfl
@[simp] theorem State.emit_pc (e : Event) : (s.emit e).pc = s.pc := rfl
@[simp] theorem State.emit_running (e : Event) : (s.emit e).running = s.running := rfl
@[simp] theorem State.emit_fault (e : Event) : (s.emit e).fault = s.fault := rfl
@[simp] theorem State.emit_delay (e : Event) : (s.emit e).delay = s.delay := rfl
@[simp] theorem State.emit_gpio (e : Event) : (s.emit e).gpio = s.gpio := rfl
@[simp] theorem State.emit_gpioMode (e : Event) : (s.emit e).gpioMode = s.gpioMode := rfl
@[simp] theorem State.emit_serialBuf (e : Event) : (s.emit e).serialBuf = s.serialBuf := rfl
@[simp] theorem State.emit_spiBuf (e : Event) : (s.emit e).spiBuf = s.spiBuf := rfl
@[simp] theorem State.emit_trace (e : Event) : (s.emit e).trace = s.trace ++ [e] := rfl
@[simp] theorem State.emit_cursor (e : Event) : (s.emit e).cursor = s.cursor := rfl
@[simp] theorem State.emit_flash (e : Event) : (s.emit e).flash = s.flash := rfl
@[simp] theorem State.emit_imageLen (e : Event) : (s.emit e).imageLen = s.imageLen := rfl
@[simp] theorem State.emit_ram (e : Event) : (s.emit e).ram = s.ram := rfl
@[simp] theorem State.emit_adcDraws (e : Event) : (s.emit e).adcDraws = s.adcDraws := rfl

@[simp] theorem State.appendSerial_regs (b : Byte) : (s.appendSerial b).regs = s.regs := rfl
@[simp] theorem State.appendSerial_flag (b : Byte) : (s.appendSerial b).flag = s.flag := rfl
@[simp] theorem State.appendSerial_pc (b : Byte) : (s.appendSerial b).pc = s.pc := rfl
@[simp] theorem State.appendSerial_running (b : Byte) : (s.appendSerial b).running = s.running := rfl
@[simp] theorem State.appendSerial_fault (b : Byte) : (s.appendSerial b).fault = s.fault := rfl
@[simp] theorem State.appendSerial_delay (b : Byte) : (s.appendSerial b).delay = s.delay := rfl
@[simp] theorem State.appendSerial_gpio (b : Byte) : (s.appendSerial b).gpio = s.gpio := rfl
@[simp] theorem State.appendSerial_gpioMode (b : Byte) : (s.appendSerial b).gpioMode = s.gpioMode := rfl
@[simp] theorem State.appendSerial_serialBuf (b : Byte) : (s.appendSerial b).serialBuf = s.serialBuf ++ [b] := rfl
@[simp] theorem State.appendSerial_spiBuf (b : Byte) : (s.appendSerial b).spiBuf = s.spiBuf := rfl
@[simp] theorem State.appendSerial_trace (b : Byte) : (s.appendSerial b).trace = s.trace := rfl
@[simp] theorem State.appendSerial_cursor (b : Byte) : (s.appendSerial b).cursor = s.cursor := rfl
@[simp] theorem State.appendSerial_flash (b : Byte) : (s.appendSerial b).flash = s.flash := rfl
@[simp] theorem State.appendSerial_imageLen (b : Byte) : (s.appendSerial b).imageLen = s.imageLen := rfl
@[simp] theorem State.appendSerial_ram (b : Byte) : (s.appendSerial b).ram = s.ram := rfl
@[simp] theorem State.appendSerial_adcDraws (b : Byte) : (s.appendSerial b).adcDraws = s.adcDraws := rfl

@[simp] theorem State.appendSpi_regs (b : Byte) : (s.appendSpi b).regs = s.regs := rfl
@[simp] theorem State.appendSpi_flag (b : Byte) : (s.appendSpi b).flag = s.flag := rfl
@[simp] theorem State.appendSpi_pc (b : Byte) : (s.appendSpi b).pc = s.pc := rfl
@[simp] theorem State.appendSpi_running (b : Byte) : (s.appendSpi b).running = s.running := rfl
@[simp] theorem State.appendSpi_fault (b : Byte) : (s.appendSpi b).fault = s.fault := rfl
@[simp] theorem State.appendSpi_delay (b : Byte) : (s.appendSpi b).delay = s.delay := rfl
@[simp] theorem State.appendSpi_gpio (b : Byte) : (s.appendSpi b).gpio = s.gpio := rfl
@[simp] theorem State.appendSpi_gpioMode (b : Byte) : (s.appendSpi b).gpioMode = s.gpioMode := rfl
@[simp] theorem State.appendSpi_serialBuf (b : Byte) : (s.appendSpi b).serialBuf = s.serialBuf := rfl
@[simp] theorem State.appendSpi_spiBuf (b : Byte) : (s.appendSpi b).spiBuf = s.spiBuf ++ [b] := rfl
@[simp] theorem State.appendSpi_trace (b : Byte) : (s.appendSpi b).trace = s.trace := rfl
@[simp] theorem State.appendSpi_cursor (b : Byte) : (s.appendSpi b).cursor = s.cursor := rfl
@[simp] theorem State.appendSpi_flash (b : Byte) : (s.appendSpi b).flash = s.flash := rfl
@[simp] theorem State.appendSpi_imageLen (b : Byte) : (s.appendSpi b).imageLen = s.imageLen := rfl
@[simp] theorem State.appendSpi_ram (b : Byte) : (s.appendSpi b).ram = s.ram := rfl
@[simp] theorem State.appendSpi_adcDraws (b : Byte) : (s.appendSpi b).adcDraws = s.adcDraws := rfl

@[simp] theorem State.drawAdc_regs : (s.drawAdc).regs = s.regs := rfl
@[simp] theorem State.drawAdc_flag : (s.drawAdc).flag = s.flag := rfl
@[simp] theorem State.drawAdc_pc : (s.drawAdc).pc = s.pc := rfl
@[simp] theorem State.drawAdc_running : (s.drawAdc).running = s.running := rfl
@[simp] theorem State.drawAdc_fault : (s.drawAdc).fault = s.fault := rfl
@[simp] theorem State.drawAdc_delay : (s.drawAdc).delay = s.delay := rfl
@[simp] theorem State.drawAdc_gpio : (s.drawAdc).gpio = s.gpio := rfl
@[simp] theorem State.drawAdc_gpioMode : (s.drawAdc).gpioMode = s.gpioMode := rfl
@[simp] theorem State.drawAdc_serialBuf : (s.drawAdc).serialBuf = s.serialBuf := rfl
@[simp] theorem State.drawAdc_spiBuf : (s.drawAdc).spiBuf = s.spiBuf := rfl
@[simp] theorem State.drawAdc_trace : (s.drawAdc).trace = s.trace := rfl
@[simp] theorem State.drawAdc_cursor : (s.drawAdc).cursor = s.cursor := rfl
@[simp] theorem State.drawAdc_flash : (s.drawAdc).flash = s.flash := rfl
@[simp] theorem State.drawAdc_imageLen : (s.drawAdc).imageLen = s.imageLen := rfl
@[simp] theorem State.drawAdc_ram : (s.drawAdc).ram = s.ram := rfl
@[simp] theorem State.drawAdc_adcDraws : (s.drawAdc).adcDraws = s.adcDraws + 1 := rfl

@[simp] theorem State.setPc_regs (t : Nat) : (s.setPc t).regs = s.regs := rfl
@[simp] theorem State.setPc_flag (t : Nat) : (s.setPc t).flag = s.flag := rfl
@[simp] theorem State.setPc_pc (t : Nat) : (s.setPc t).pc = t := rfl
@[simp] theorem State.setPc_running (t : Nat) : (s.setPc t).running = s.running := rfl
@[simp] theorem State.setPc_fault (t : Nat) : (s.setPc t).fault = s.fault := rfl
@[simp] theorem State.setPc_delay (t : Nat) : (s.setPc t).delay = s.delay := rfl
@[simp] theorem State.setPc_gpio (t : Nat) : (s.setPc t).gpio = s.gpio := rfl
@[simp] theorem State.setPc_gpioMode (t : Nat) : (s.setPc t).gpioMode = s.gpioMode := rfl
@[simp] theorem State.setPc_serialBuf (t : Nat) : (s.setPc t).serialBuf = s.serialBuf := rfl
@[simp] theorem State.setPc_spiBuf (t : Nat) : (s.setPc t).spiBuf = s.spiBuf := rfl
@[simp] theorem State.setPc_trace (t : Nat) : (s.setPc t).trace = s.trace := rfl
@[simp] theorem State.setPc_cursor (t : Nat) : (s.setPc t).cursor = s.cursor := rfl
@[simp] theorem State.setPc_flash (t : Nat) : (s.setPc t).flash = s.flash := rfl
@[simp] theorem State.setPc_imageLen (t : Nat) : (s.setPc t).imageLen = s.imageLen := rfl
@[simp] theorem State.setPc_ram (t : Nat) : (s.setPc t).ram = s.ram := rfl
@[simp] theorem State.setPc_adcDraws (t : Nat) : (s.setPc t).adcDraws = s.adcDraws := rfl

@[simp] theorem State.advance_regs (n : Nat) : (s.advance n).regs = s.regs := rfl
@[simp] theorem State.advance_flag (n : Nat) : (s.advance n).flag = s.flag := rfl
@[simp] theorem State.advance_pc (n : Nat) : (s.advance n).pc = s.pc + 2 + n := rfl
@[simp] theorem State.advance_running (n : Nat) : (s.advance n).running = s.running := rfl
@[simp] theorem State.advance_fault (n : Nat) : (s.advance n).fault = s.fault := rfl
@[simp] theorem State.advance_delay (n : Nat) : (s.advance n).delay = s.delay := rfl
@[simp] theorem State.advance_gpio (n : Nat) : (s.advance n).gpio = s.gpio := rfl
@[simp] theorem State.advance_gpioMode (n : Nat) : (s.advance n).gpioMode = s.gpioMode := rfl
@[simp] theorem State.advance_serialBuf (n : Nat) : (s.advance n).serialBuf = s.serialBuf := rfl
@[simp] theorem State.advance_spiBuf (n : Nat) : (s.advance n).spiBuf = s.spiBuf := rfl
@[simp] theorem State.advance_trace (n : Nat) : (s.advance n).trace = s.trace := rfl
@[simp] theorem State.advance_cursor (n : Nat) : (s.advance n).cursor = s.cursor := rfl
@[simp] theorem State.advance_flash (n : Nat) : (s.advance n).flash = s.flash := rfl
@[simp] theorem State.advance_imageLen (n : Nat) : (s.advance n).imageLen = s.imageLen := rfl
@[simp] theorem State.advance_ram (n : Nat) : (s.advance n).ram = s.ram := rfl
@[simp] theorem State.advance_adcDraws (n : Nat) : (s.advance n).adcDraws = s.adcDraws := rfl

@[simp] theorem State.halt_regs : (s.halt).regs = s.regs := rfl
@[simp] theorem State.halt_flag : (s.halt).flag = s.flag := rfl
@[simp] theorem State.halt_pc : (s.halt).pc = s.pc := rfl
@[simp] theorem State.halt_running : (s.halt).running = false := rfl
@[simp] theorem State.halt_fault : (s.halt).fault = s.fault := rfl
@[simp] theorem State.halt_delay : (s.halt).delay = s.delay := rfl
@[simp] theorem State.halt_gpio : (s.halt).gpio = s.gpio := rfl
@[simp] theorem State.halt_gpioMode : (s.halt).gpioMode = s.gpioMode := rfl
@[simp] theorem State.halt_serialBuf : (s.halt).serialBuf = s.serialBuf := rfl
@[simp] theorem State.halt_spiBuf : (s.halt).spiBuf = s.spiBuf := rfl
@[simp] theorem State.halt_trace : (s.halt).trace = s.trace := rfl
@[simp] theorem State.halt_cursor : (s.halt).cursor = s.cursor := rfl
@[simp] theorem State.halt_flash : (s.halt).flash = s.flash := rfl
@[simp] theorem State.halt_imageLen : (s.halt).imageLen = s.imageLen := rfl
@[simp] theorem State.halt_ram : (s.halt).ram = s.ram := rfl
@[simp] theorem State.halt_adcDraws : (s.halt).adcDraws = s.adcDraws := rfl

@[simp] theorem State.stall_regs : (s.stall).regs = s.regs := rfl
@[simp] theorem State.stall_flag : (s.stall).flag = s.flag := rfl
@[simp] theorem State.stall_pc : (s.stall).pc = s.pc := rfl
@[simp] theorem State.stall_running : (s.stall).running = s.running := rfl
@[simp] theorem State.stall_fault : (s.stall).fault = s.fault := rfl
@[simp] theorem State.stall_delay : (s.stall).delay = s.delay - 1 := rfl
@[simp] theorem State.stall_gpio : (s.stall).gpio = s.gpio := rfl
@[simp] theorem State.stall_gpioMode : (s.stall).gpioMode = s.gpioMode := rfl
@[simp] theorem State.stall_serialBuf : (s.stall).serialBuf = s.serialBuf := rfl
@[simp] theorem State.stall_spiBuf : (s.stall).spiBuf = s.spiBuf := rfl
@[simp] theorem State.stall_trace : (s.stall).trace = s.trace := rfl
@[simp] theorem State.stall_cursor : (s.stall).cursor = s.cursor := rfl
@[simp] theorem State.stall_flash : (s.stall).flash = s.flash := rfl
@[simp] theorem State.stall_imageLen : (s.stall).imageLen = s.imageLen := rfl
@[simp] theorem State.stall_ram : (s.stall).ram = s.ram := rfl
@[simp] theorem State.stall_adcDraws : (s.stall).adcDraws = s.adcDraws := rfl

@[simp] theorem State.raise_regs (k : FaultKind) (o : Option Byte) : (s.raise k o).regs = s.regs := rfl
@[simp] theorem State.raise_flag (k : FaultKind) (o : Option Byte) : (s.raise k o).flag = s.flag := rfl
@[simp] theorem State.raise_pc (k : FaultKind) (o : Option Byte) : (s.raise k o).pc = s.pc := rfl
@[simp] theorem State.raise_running (k : FaultKind) (o : Option Byte) : (s.raise k o).running = false := rfl
@[simp] theorem State.raise_fault (k : FaultKind) (o : Option Byte) : (s.raise k o).fault = some { kind := k, opcode := o, pc := s.pc } := rfl
@[simp] theorem State.raise_delay (k : FaultKind) (o : Option Byte) : (s.raise k o).delay = s.delay := rfl
@[simp] theorem State.raise_gpio (k : FaultKind) (o : Option Byte) : (s.raise k o).gpio = s.gpio := rfl
@[simp] theorem State.raise_gpioMode (k : FaultKind) (o : Option Byte) : (s.raise k o).gpioMode = s.gpioMode := rfl
@[simp] theorem State.raise_serialBuf (k : FaultKind) (o : Option Byte) : (s.raise k o).serialBuf = s.serialBuf := rfl
@[simp] theorem State.raise_spiBuf (k : FaultKind) (o : Option Byte) : (s.raise k o).spiBuf = s.spiBuf := rfl
@[simp] theorem State.raise_trace (k : FaultKind) (o : Option Byte) : (s.raise k o).trace = s.trace := rfl
@[simp] theorem State.raise_cursor (k : FaultKind) (o : Option Byte) : (s.raise k o).cursor = s.cursor := rfl
@[simp] theorem State.raise_flash (k : FaultKind) (o : Option Byte) : (s.raise k o).flash = s.flash := rfl
@[simp] theorem State.raise_imageLen (k : FaultKind) (o : Option Byte) : (s.raise k o).imageLen = s.imageLen := rfl
@[simp] theorem State.raise_ram (k : FaultKind) (o : Option Byte) : (s.raise k o).ram = s.ram := rfl
@[simp] theorem State.raise_adcDraws (k : FaultKind) (o : Option Byte) : (s.raise k o).adcDraws = s.adcDraws := rfl

@[simp] theorem State.moveCursor_regs (c : Cursor) : (s.moveCursor c).regs = s.regs := rfl
@[simp] theorem State.moveCursor_flag (c : Cursor) : (s.moveCursor c).flag = s.flag := rfl
@[simp] theorem State.moveCursor_pc (c : Cursor) : (s.moveCursor c).pc = s.pc := rfl
@[simp] theorem State.moveCursor_running (c : Cursor) : (s.moveCursor c).running = s.running := rfl
@[simp] theorem State.moveCursor_fault (c : Cursor) : (s.moveCursor c).fault = s.fault := rfl
@[simp] theorem State.moveCursor_delay (c : Cursor) : (s.moveCursor c).delay = s.delay := rfl
@[simp] theorem State.moveCursor_gpio (c : Cursor) : (s.moveCursor c).gpio = s.gpio := rfl
@[simp] theorem State.moveCursor_gpioMode (c : Cursor) : (s.moveCursor c).gpioMode = s.gpioMode := rfl
@[simp] theorem State.moveCursor_serialBuf (c : Cursor) : (s.moveCursor c).serialBuf = s.serialBuf := rfl
@[simp] theorem State.moveCursor_spiBuf (c : Cursor) : (s.moveCursor c).spiBuf = s.spiBuf := rfl
@[simp] theorem State.moveCursor_trace (c : Cursor) : (s.moveCursor c).trace = s.trace ++ [.cursorMoved c.x c.y] := rfl
@[simp] theorem State.moveCursor_cursor (c : Cursor) : (s.moveCursor c).cursor = c := rfl
@[simp] theorem State.moveCursor_flash (c : Cursor) : (s.moveCursor c).flash = s.flash := rfl
@[simp] theorem State.moveCursor_imageLen (c : Cursor) : (s.moveCursor c).imageLen = s.imageLen := rfl
@[simp] theorem State.moveCursor_ram (c : Cursor) : (s.moveCursor c).ram = s.ram := rfl
@[simp] theorem State.moveCursor_adcDraws (c : Cursor) : (s.moveCursor c).adcDraws = s.adcDraws := rfl

/-- Reading a register after a register write. -/
@[simp] theorem State.reg_setReg (r q : Reg) (v : Byte) : (s.setReg r v).reg q = if r = q then v else s.reg q := by
  simp [State.reg, State.setReg, Vector.get_eq_getElem, Vector.getElem_set, Fin.ext_iff]

/-- Reading a pin after a pin write. -/
@[simp] theorem State.pin_setPin (p q : Pin) (b : Bool) : (s.setPin p b).pin q = if p = q then b else s.pin q := by
  simp [State.pin, State.setPin, Vector.get_eq_getElem, Vector.getElem_set, Fin.ext_iff]

/-- Registers depend on `regs` alone. -/
theorem State.reg_congr {s t : State} (h : s.regs = t.regs) (q : Reg) : s.reg q = t.reg q := by
  simp [State.reg, h]

/-- Pins depend on `gpio` alone. -/
theorem State.pin_congr {s t : State} (h : s.gpio = t.gpio) (q : Pin) : s.pin q = t.pin q := by
  simp [State.pin, h]

/-- Program memory reads depend on `flash` and `imageLen` alone. -/
theorem State.memRead_congr {s t : State} (hf : s.flash = t.flash) (hl : s.imageLen = t.imageLen) (o : Nat) :
    s.memRead o = t.memRead o := by
  simp [State.memRead, hf, hl]

end Sys2Proof.Machine
end

