-- ==== Sys2Proof/Laws/Step.lean ====
section
/-! SUPPORT. What the shared operations of a step can do, said once: faulting, the branch resolver, fetching, and the shell
of a step around an instruction's meaning. -/

namespace Sys2Proof.Machine

/-! ### Faulting and branching -/

@[simp] theorem State.trap_eq (s : State) (k : FaultKind) (o : Option Byte) : s.trap k o = .next (s.raise k o) := rfl

/-- Everything the branch resolver can do. -/
theorem resolveBranch_cases (opcode : Byte) (cond : CompareFlag → Bool) (ops : List Byte) (s : State) :
    (ops.length < 1 ∧ resolveBranch opcode cond ops s = .next (s.raise .operandsShort (some opcode))) ∨
    (∃ addr extra, ops = addr :: extra ∧
      ((s.flag = .unset ∧ resolveBranch opcode cond ops s = .next (s.raise .flagUnset (some opcode))) ∨
       (s.flag ≠ .unset ∧ cond s.flag = true ∧ resolveBranch opcode cond ops s = .next (s.setPc addr.toNat)) ∨
       (s.flag ≠ .unset ∧ cond s.flag = false ∧ resolveBranch opcode cond ops s = .next (s.advance ops.length)))) := by
  rcases operandsA_cases ops with ⟨h, e⟩ | ⟨addr, extra, h, e⟩
  · exact .inl ⟨h, by simp [resolveBranch, e]⟩
  · refine .inr ⟨addr, extra, h, ?_⟩
    cases hf : s.flag with
    | unset => exact .inl ⟨rfl, by simp [resolveBranch, e, hf]⟩
    | _ =>
      refine .inr ?_
      cases hc : cond _ with
      | true => exact .inl ⟨by simp, rfl, by simp [resolveBranch, e, hf, hc]⟩
      | false => exact .inr ⟨by simp, rfl, by simp [resolveBranch, e, hf, hc]⟩

/-! ### Fetching -/

/-- A byte of program memory lies below `imageLen`. -/
theorem State.memRead_lt {s : State} {o : Nat} {b : Byte} (h : s.memRead o = some b) : o < s.imageLen := by
  by_contra hc
  simp [State.memRead, hc] at h

/-- A fetch from an offset that holds a byte begins with it. -/
theorem State.readBytes_cons {s : State} {o : Nat} {b : Byte} (h : s.memRead o = some b) (n : Nat) :
    s.readBytes o (n + 1) = b :: s.readBytes (o + 1) n := by
  simp [State.readBytes, h]

/-- The bytes fetched from `o` are program memory's. -/
theorem State.readBytes_get {s : State} {o n k : Nat} {b : Byte} (h : (s.readBytes o n)[k]? = some b) :
    s.memRead (o + k) = some b := by
  induction n generalizing o k with
  | zero => simp [State.readBytes] at h
  | succ n ih =>
    unfold State.readBytes at h
    cases hm : s.memRead o with
    | none => simp [hm] at h
    | some c =>
      simp only [hm] at h
      cases k with
      | zero => simpa [hm] using h
      | succ k =>
        have := ih (by simpa using h)
        rwa [show o + (k + 1) = o + 1 + k by omega]

/-- Where the bytes from `o` begin with `bs`, so does what is fetched. -/
theorem State.readBytes_prefix {s : State} {o n : Nat} {bs : List Byte} (hn : bs.length ≤ n)
    (h : ∀ k, (hk : k < bs.length) → s.memRead (o + k) = some bs[k]) : ∃ after, s.readBytes o n = bs ++ after := by
  induction bs generalizing o n with
  | nil => exact ⟨_, rfl⟩
  | cons b bs ih =>
    cases n with
    | zero => simp at hn
    | succ n =>
      have h0 : s.memRead o = some b := h 0 (by simp)
      obtain ⟨after, ha⟩ := ih (o := o + 1) (n := n) (by simpa using hn) (fun k hk => by
        have := h (k + 1) (by simpa using hk)
        rwa [show o + 1 + k = o + (k + 1) by omega])
      exact ⟨after, by simp [State.readBytes, h0, ha]⟩

/-- What is fetched stops at the first offset that holds no value. -/
theorem State.readBytes_length_le {s : State} {o n k : Nat} (h : s.memRead (o + k) = none) :
    (s.readBytes o n).length ≤ k := by
  by_contra hc
  have hk : k < (s.readBytes o n).length := by omega
  have := State.readBytes_get (List.getElem?_eq_getElem hk)
  rw [h] at this
  cases this

/-- Fetching depends on program memory alone. -/
theorem State.readBytes_congr {s t : State} (h : ∀ o, s.memRead o = t.memRead o) (o n : Nat) :
    s.readBytes o n = t.readBytes o n := by
  induction n generalizing o with
  | zero => rfl
  | succ n ih => simp only [State.readBytes, h o, ih]

/-- What is fetched depends on program memory and the program counter alone. -/
theorem State.fetch_congr {s t : State} (h : ∀ o, s.memRead o = t.memRead o) (hp : s.pc = t.pc) : s.fetch = t.fetch := by
  rw [State.fetch, State.fetch, State.readBytes_congr h, hp]

/-- Everything a fetch can answer. -/
theorem State.fetch_cases (s : State) :
    (s.memRead s.pc = none ∧ s.fetch = .error .noOpcode) ∨
    (∃ opc, s.memRead s.pc = some opc ∧ selectOpcode opc = none ∧ s.fetch = .error (.unknownOpcode opc)) ∨
    (∃ opc make, s.memRead s.pc = some opc ∧ selectOpcode opc = some make ∧
      (s.memRead (s.pc + 1) = none ∨
        ∃ len, s.memRead (s.pc + 1) = some len ∧ ∃ k < len.toNat, s.memRead (s.pc + 2 + k) = none) ∧
      s.fetch = .error (.truncated opc)) ∨
    (∃ i after, i.LenFits ∧ s.BytesAtPc (encode i) ∧ s.fetch = .ok (i, after)) := by
  rcases decode_cases (s.readBytes s.pc longestRecord) with ⟨hb, hd⟩ | ⟨opc, rest, hb, hs, hd⟩ |
    ⟨opc, rest, make, hb, hs, hm, hd⟩ | ⟨opc, len, ops, after, make, hb, hs, hl, hd⟩
  · refine .inl ⟨?_, hd⟩
    cases hm : s.memRead s.pc with
    | none => rfl
    | some b => simp [State.readBytes_cons hm 256, longestRecord] at hb
  · refine .inr (.inl ⟨opc, ?_, hs, hd⟩)
    simpa using State.readBytes_get (s := s) (o := s.pc) (n := longestRecord) (k := 0) (b := opc) (by simp [hb])
  · refine .inr (.inr (.inl ⟨opc, make, ?_, hs, ?_, hd⟩))
    · simpa using State.readBytes_get (s := s) (o := s.pc) (n := longestRecord) (k := 0) (b := opc) (by simp [hb])
    · by_contra hc
      push Not at hc
      obtain ⟨h1, h2⟩ := hc
      obtain ⟨len, hlen⟩ := Option.ne_none_iff_exists'.mp h1
      have hall := h2 len hlen
      have h0 : s.memRead s.pc = some opc := by
        simpa using State.readBytes_get (s := s) (o := s.pc) (n := longestRecord) (k := 0) (b := opc) (by simp [hb])
      choose f hf using fun k (hk : k < len.toNat) => Option.ne_none_iff_exists'.mp (hall k hk)
      have hlt := len.isLt
      obtain ⟨after, ha⟩ := State.readBytes_prefix (s := s) (o := s.pc) (n := longestRecord)
        (bs := opc :: len :: List.ofFn fun k : Fin len.toNat => f k k.isLt)
        (by simp [longestRecord]; omega) (fun k hk => by
          match k with
          | 0 => simpa using h0
          | 1 => simpa using hlen
          | k + 2 =>
            have hk' : k < len.toNat := by simpa using hk
            simpa [Nat.add_assoc, Nat.add_comm 2 k] using hf k hk')
      rw [ha] at hb
      simp only [List.cons_append, List.cons.injEq] at hb
      obtain ⟨-, hb⟩ := hb
      rcases hm with rfl | ⟨len', body, rfl, hshort⟩
      · simp at hb
      · simp only [List.cons.injEq] at hb
        obtain ⟨rfl, rfl⟩ := hb
        simp at hshort
  · refine .inr (.inr (.inr ⟨make ops, after, ?_, ?_, hd⟩))
    · have := len.isLt
      show (make ops).operands.length ≤ 255
      rw [(selectOpcode_spec hs ops).1]
      omega
    · intro k hk
      refine State.readBytes_get (n := longestRecord) ?_
      have hlen : BitVec.ofNat 8 ops.length = len := by
        rw [hl]
        simp
      have he : encode (make ops) = opc :: len :: ops := by
        simp [encode, selectOpcode_spec hs ops, hlen]
      rw [hb, show opc :: len :: (ops ++ after) = encode (make ops) ++ after by simp [he],
        List.getElem?_append_left hk, List.getElem?_eq_getElem hk]

/-! ### The shell of a step -/

theorem step_halts {s : State} (h : s.mustHalt = true) : step s = .next s.halt := by simp [step, h]

theorem step_stalls {s : State} (h : s.mustHalt = false) (hs : s.mustStall = true) : step s = .next s.stall := by
  simp [step, h, hs]

theorem State.mustHalt_iff (s : State) : s.mustHalt = true ↔ s.running = false ∨ Config.flashCapacity ≤ s.pc := by
  simp [State.mustHalt]

theorem State.mustStall_iff (s : State) : s.mustStall = true ↔ s.delay ≠ 0#16 := by
  simp only [State.mustStall, decide_eq_true_eq, ne_eq, BitVec.toNat_eq]
  simp
  omega

theorem State.Ready.not_halt {s : State} (h : s.Ready) : s.mustHalt = false := by
  simp [State.mustHalt, h.1, h.2.1]

theorem State.Ready.not_stall {s : State} (h : s.Ready) : s.mustStall = false := by
  simp [State.mustStall, h.2.2]

/-- A step that neither halts nor stalls fetches. -/
theorem step_fetches {s : State} (h : s.Ready) :
    step s = match s.fetch with
      | .error e => s.fetchTrap e
      | .ok (i, _) => exec i s :=
  (if_neg (by simp [h.not_halt])).trans (if_neg (by simp [h.not_stall]))

/-- The three ways a step begins. -/
theorem step_start (s : State) : s.mustHalt = true ∨ (s.mustHalt = false ∧ s.mustStall = true) ∨ s.Ready := by
  cases h : s.mustHalt with
  | true => exact .inl rfl
  | false =>
    cases hs : s.mustStall with
    | true => exact .inr (.inl ⟨rfl, rfl⟩)
    | false =>
      refine .inr (.inr ?_)
      simp only [State.mustHalt, Bool.or_eq_false_iff, Bool.not_eq_false', decide_eq_false_iff_not, not_le] at h
      have hd : ¬ s.delay ≠ 0#16 := fun hc => by simp [(State.mustStall_iff s).mpr hc] at hs
      exact ⟨h.1, h.2, not_not.mp hd⟩

end Sys2Proof.Machine
end

