-- ==== Sys2Proof/Tests/Slice0.lean ====
section
/-! SUPPORT. The model's own tests: decoding, the spec's test vectors (95_test_vectors.md), ill-formed terms, and for each
statement with hypotheses a witness that meets them. Expected results are the spec's. -/

namespace Sys2Proof.Tests

open Sys2Proof Sys2Proof.Machine Sys2Proof.Claims

/-! ### Helpers -/

/-- The fresh state of an image, with every pin 0 at the load. -/
def fresh (image : List Byte) : State := State.reset.loaded image (Vector.replicate 40 false)

/-- The state a result leads to. -/
def after : Result → Option State
  | .next t => some t
  | .fault _ => none
  | .refused _ => none

/-- One step, read by `f`. -/
def see (s : State) {α : Type} (f : State → α) : Option α := (after (step s)).map f

/-- The fault a step records, with whether the machine still runs. -/
def seeFault (s : State) : Option (Option FaultRecord × Bool × Nat) := see s fun t => (t.fault, t.running, t.pc)

/-! ### Decoding: every constructor, its record written bit by bit from opcode_table.json's encoding -/

theorem test_decode_loadImm :
    decode [0b00000001#8, 0b00000010#8, 0b00001111#8, 0b00101010#8] = .ok (.loadImm [0x0F#8, 0x2A#8], []) := by decide

theorem test_decode_storeGpio :
    decode [0b00000010#8, 0b00000010#8, 0b00001111#8, 0b00101010#8] = .ok (.storeGpio [0x0F#8, 0x2A#8], []) := by decide

theorem test_decode_loadGpio :
    decode [0b00000011#8, 0b00000010#8, 0b00001111#8, 0b00101010#8] = .ok (.loadGpio [0x0F#8, 0x2A#8], []) := by decide

theorem test_decode_jump :
    decode [0b00000100#8, 0b00000001#8, 0b00100000#8] = .ok (.jump [0x20#8], []) := by decide

theorem test_decode_serialWrite :
    decode [0b00000101#8, 0b00000001#8, 0b00000101#8] = .ok (.serialWrite [0x05#8], []) := by decide

theorem test_decode_add :
    decode [0b00010001#8, 0b00000010#8, 0b00000011#8, 0b00001100#8] = .ok (.add [0x03#8, 0x0C#8], []) := by decide

theorem test_decode_sub :
    decode [0b00010010#8, 0b00000010#8, 0b00000011#8, 0b00001100#8] = .ok (.sub [0x03#8, 0x0C#8], []) := by decide

theorem test_decode_compare :
    decode [0b00010011#8, 0b00000010#8, 0b00000011#8, 0b00001100#8] = .ok (.compare [0x03#8, 0x0C#8], []) := by decide

theorem test_decode_jumpEq :
    decode [0b00010100#8, 0b00000001#8, 0b00100000#8] = .ok (.jumpEq [0x20#8], []) := by decide

theorem test_decode_jumpNeq :
    decode [0b00010101#8, 0b00000001#8, 0b00100000#8] = .ok (.jumpNeq [0x20#8], []) := by decide

theorem test_decode_delay :
    decode [0b00010110#8, 0b00000010#8, 0b00000011#8, 0b00000001#8] = .ok (.delay [0x03#8, 0x01#8], []) := by decide

theorem test_decode_readAdc :
    decode [0b00010111#8, 0b00000001#8, 0b00000101#8] = .ok (.readAdc [0x05#8], []) := by decide

theorem test_decode_spiWrite :
    decode [0b00011000#8, 0b00000001#8, 0b00000101#8] = .ok (.spiWrite [0x05#8], []) := by decide

theorem test_decode_screenPrint :
    decode [0b00011001#8, 0b00000001#8, 0b00000101#8] = .ok (.screenPrint [0x05#8], []) := by decide

theorem test_decode_screenClear :
    decode [0b00011010#8, 0b00000000#8] = .ok (.screenClear [], []) := by decide

theorem test_decode_drawPixel :
    decode [0b00011011#8, 0b00000010#8, 0b00000011#8, 0b00001100#8] = .ok (.drawPixel [0x03#8, 0x0C#8], []) := by decide

theorem test_decode_moveX :
    decode [0b00011100#8, 0b00000001#8, 0b00000101#8] = .ok (.moveX [0x05#8], []) := by decide

theorem test_decode_moveY :
    decode [0b00011101#8, 0b00000001#8, 0b00000101#8] = .ok (.moveY [0x05#8], []) := by decide

theorem test_decode_jumpGt :
    decode [0b00011110#8, 0b00000001#8, 0b00100000#8] = .ok (.jumpGt [0x20#8], []) := by decide

theorem test_decode_jumpLt :
    decode [0b00011111#8, 0b00000001#8, 0b00100000#8] = .ok (.jumpLt [0x20#8], []) := by decide

/-- A longer record keeps its extra operands, and the bytes after it are left (E7). -/
theorem test_decode_extra : decode [0x1A#8, 0x02#8, 0xAA#8, 0xBB#8, 0x04#8] = .ok (.screenClear [0xAA#8, 0xBB#8], [0x04#8]) := by
  decide

/-- ST7: an unknown opcode is found before the length byte is read. -/
theorem test_decode_unknown : decode [0x20#8] = .error (.unknownOpcode 0x20#8) := by decide

/-- ST9: the ends of the unassigned range. -/
theorem test_decode_gap : decode [0x06#8, 0x00#8] = .error (.unknownOpcode 0x06#8) ∧
    decode [0x10#8, 0x00#8] = .error (.unknownOpcode 0x10#8) ∧ decode [0x00#8, 0x00#8] = .error (.unknownOpcode 0x00#8) := by
  decide

theorem test_decode_truncated : decode [] = .error .noOpcode ∧ decode [0x01#8] = .error (.truncated 0x01#8) ∧
    decode [0x01#8, 0x02#8, 0x03#8] = .error (.truncated 0x01#8) := by decide

theorem test_encode : encode (.jumpLt [0x17#8]) = [0x1F#8, 0x01#8, 0x17#8] := by decide

/-- The opcode byte alone, all later bits zero: a record of length 0. -/
theorem test_table_word_short : decodeTableWord 8 0x01 = some (.loadImm []) := by decide

/-- `01 02 03 2A` as a table word: the first byte is the least significant. -/
theorem test_table_word_full : decodeTableWord 32 0x2A030201 = some (.loadImm [0x03#8, 0x2A#8]) := by decide

theorem test_table_word_unknown : decodeTableWord 8 0x20 = none := by decide

/-- RG1 as the first instruction after reset. -/
theorem test_fetch_word : see (State.reset.withFetchWord 32 0x2A030201) (fun t => (t.reg 3, t.pc)) = some (42#8, 4) := by decide

/-! ### Well-formedness: an ill-formed term for each check -/

theorem test_wf_good : (Instr.add [0x0F#8, 0x0F#8]).WellFormed ∧ (Instr.screenClear []).Canonical := by decide

theorem test_wf_too_long : ¬ (Instr.screenClear (List.replicate 256 0#8)).LenFits := by decide +kernel

theorem test_wf_longest : (Instr.screenClear (List.replicate 255 0#8)).WellFormed := by decide +kernel

theorem test_wf_short : ¬ (Instr.loadImm [0x03#8]).Enough := by decide

theorem test_wf_bad_register : ¬ (Instr.loadImm [0x10#8, 0x05#8]).RegistersValid ∧
    ¬ (Instr.add [0x01#8, 0x10#8]).RegistersValid := by decide

theorem test_wf_pin_is_no_register : (Instr.storeGpio [0x00#8, 0xFF#8]).WellFormed := by decide

/-! ### The spec's vectors, one step each -/

/-- ST1. -/
theorem test_st1 : seeFault (fresh []) = some (some ⟨.fetchUnwritten, none, 0⟩, false, 0) := by decide

/-- ST2. -/
theorem test_st2 : seeFault (fresh [0x01#8]) = some (some ⟨.fetchUnwritten, some 0x01#8, 0⟩, false, 0) := by decide

/-- ST10: OperandsShort comes before BadRegister. -/
theorem test_st10 : seeFault (fresh [0x11#8, 0x01#8, 0x10#8]) = some (some ⟨.operandsShort, some 0x11#8, 0⟩, false, 0) := by decide

/-- ST12: OperandsShort comes before FlagUnset. -/
theorem test_st12 : seeFault (fresh [0x14#8, 0x00#8]) = some (some ⟨.operandsShort, some 0x14#8, 0⟩, false, 0) := by decide

/-- ST15: ignored extras must lie in the image. -/
theorem test_st15 : seeFault (fresh [0x1A#8, 0x05#8, 0xAA#8]) = some (some ⟨.fetchUnwritten, some 0x1A#8, 0⟩, false, 0) := by decide

/-- ST16: the stall comes before the fetch. -/
theorem test_st16 : see ((fresh [0x20#8, 0x00#8]).setDelay 2#16) (fun t => (t.delay, t.pc, t.fault, t.running)) =
    some (1#16, 0, none, true) := by decide

/-- ST17: a halted machine does nothing. -/
theorem test_st17 : see (fresh [0x20#8, 0x00#8]).halt (fun t => (t.fault, t.pc, t.running)) = some (none, 0, false) := by decide

/-- ST18: the register is checked where the pin would be ignored. -/
theorem test_st18 : seeFault (fresh [0x02#8, 0x02#8, 0x10#8, 0xFF#8]) =
    some (some ⟨.badRegister, some 0x02#8, 0⟩, false, 0) := by decide

/-- LH2's last step: pc at FLASH_CAPACITY is a clean halt. -/
theorem test_lh2 : see ((fresh [0x1A#8, 0x00#8]).setPc 4194304) (fun t => (t.running, t.fault, t.pc)) =
    some (false, none, 4194304) := by decide

/-- RG2. -/
theorem test_load_imm : see (fresh [0x01#8, 0x02#8, 0x0F#8, 0xFF#8]) (fun t => (t.reg 15, t.pc)) = some (255#8, 4) := by decide

/-- RG4: the extra byte counts in the advance. -/
theorem test_load_imm_extra : see (fresh [0x01#8, 0x03#8, 0x00#8, 0x07#8, 0xFF#8]) (fun t => (t.reg 0, t.pc)) =
    some (7#8, 5) := by decide

/-- RG6, RG7: bit 0 only; the highest pin. -/
theorem test_store_gpio : see (((fresh [0x02#8, 0x02#8, 0x00#8, 0x05#8]).setReg 0 2#8).setPin 5 true) (fun t => t.pin 5) =
      some false ∧
    see ((fresh [0x02#8, 0x02#8, 0x00#8, 0x27#8]).setReg 0 0xFF#8) (fun t => t.pin 39) = some true := by decide

/-- RG8: pin 40 is ignored. -/
theorem test_store_gpio_ignored : see ((fresh [0x02#8, 0x02#8, 0x00#8, 0x28#8]).setReg 0 1#8) (fun t => (t.gpio, t.fault, t.pc)) =
    some (Vector.replicate 40 false, none, 4) := by decide

/-- RG9, RG10. -/
theorem test_load_gpio : see (((fresh [0x03#8, 0x02#8, 0x03#8, 0x05#8]).setReg 3 0xAA#8).setPin 5 true) (fun t => t.reg 3) =
      some 1#8 ∧
    see ((fresh [0x03#8, 0x02#8, 0x03#8, 0x05#8]).setReg 3 0xAA#8) (fun t => t.reg 3) = some 0#8 := by decide

/-- RG11. -/
theorem test_load_gpio_ignored : see ((fresh [0x03#8, 0x02#8, 0x03#8, 0x28#8]).setReg 3 0xAA#8) (fun t => (t.reg 3, t.pc)) =
    some (0xAA#8, 4) := by decide

/-- BR3: the length plays no part in a taken jump. -/
theorem test_jump : see (fresh [0x04#8, 0x02#8, 0x05#8, 0x99#8, 0xAA#8]) State.pc = some 5 := by decide

/-- BR6, BR7. -/
theorem test_jump_eq : see ((fresh [0x14#8, 0x03#8, 0x20#8, 0x00#8, 0x00#8]).setFlag .plus) State.pc = some 5 ∧
    see ((fresh [0x14#8, 0x03#8, 0x20#8, 0x00#8, 0x00#8]).setFlag .zero) State.pc = some 0x20 := by decide

/-- ST13. -/
theorem test_jump_eq_unset : seeFault (fresh [0x14#8, 0x01#8, 0x00#8]) =
    some (some ⟨.flagUnset, some 0x14#8, 0⟩, false, 0) := by decide

/-- The flag table of 2.3, JUMP_NEQ's column (at offset 0). -/
theorem test_jump_neq : [CompareFlag.minus, .zero, .plus].map (fun f => see ((fresh [0x15#8, 0x01#8, 0x20#8]).setFlag f) State.pc) =
    [some 0x20, some 3, some 0x20] := by decide

/-- JUMP_GT's column. -/
theorem test_jump_gt : [CompareFlag.minus, .zero, .plus].map (fun f => see ((fresh [0x1E#8, 0x01#8, 0x20#8]).setFlag f) State.pc) =
    [some 3, some 3, some 0x20] := by decide

/-- JUMP_LT's column. -/
theorem test_jump_lt : [CompareFlag.minus, .zero, .plus].map (fun f => see ((fresh [0x1F#8, 0x01#8, 0x20#8]).setFlag f) State.pc) =
    [some 0x20, some 3, some 3] := by decide

/-- AL1 (E1). -/
theorem test_add : see (((fresh [0x11#8, 0x02#8, 0x00#8, 0x01#8]).setReg 0 250#8).setReg 1 10#8) (fun t => (t.reg 0, t.reg 1, t.pc)) =
    some (4#8, 10#8, 4) := by decide

/-- AL4: one register as both operands. -/
theorem test_add_same : see ((fresh [0x11#8, 0x02#8, 0x03#8, 0x03#8]).setReg 3 0x80#8) (fun t => (t.reg 3, t.flag)) =
    some (0#8, .unset) := by decide

/-- AL6. -/
theorem test_sub : see ((fresh [0x12#8, 0x02#8, 0x00#8, 0x01#8]).setReg 1 1#8) (fun t => (t.reg 0, t.flag)) =
    some (255#8, .unset) := by decide

/-- AL7. -/
theorem test_sub_order : see ((fresh [0x12#8, 0x02#8, 0x06#8, 0x05#8]).setReg 5 10#8) (fun t => t.reg 6) = some 246#8 := by decide

/-- AL10: the compare is unsigned. -/
theorem test_compare : see (((fresh [0x13#8, 0x02#8, 0x00#8, 0x01#8]).setReg 0 0x80#8).setReg 1 0x7F#8) (fun t => t.flag) =
    some .plus := by decide

/-- AL11, AL12. -/
theorem test_compare_less : see ((fresh [0x13#8, 0x02#8, 0x00#8, 0x01#8]).setReg 1 255#8) (fun t => t.flag) = some .minus ∧
    see ((fresh [0x13#8, 0x02#8, 0x04#8, 0x04#8]).setReg 4 9#8) (fun t => t.flag) = some .zero := by decide

/-- PO1. -/
theorem test_serial_write : see ((fresh [0x05#8, 0x01#8, 0x00#8]).setReg 0 4#8) (fun t => (t.serialBuf, t.spiBuf, t.trace, t.pc)) =
    some ([4#8], [], [.serialByte 4#8], 3) := by decide

/-- PO3. -/
theorem test_spi_write : see ((fresh [0x18#8, 0x01#8, 0x06#8]).setReg 6 246#8) (fun t => (t.serialBuf, t.spiBuf, t.trace)) =
    some ([], [246#8], [.spiByte 246#8]) := by decide

/-- PO4: the event carries the cursor from before the advance. -/
theorem test_screen_print : see (((fresh [0x19#8, 0x01#8, 0x05#8]).setReg 5 65#8).setCursor ⟨10, 0⟩) (fun t => t.trace) =
    some [.drawGlyphOrNewline 65#8 10 0] := by decide

/-- PO4: the cursor after it. -/
theorem test_screen_print_cursor : see (((fresh [0x19#8, 0x01#8, 0x05#8]).setReg 5 65#8).setCursor ⟨10, 0⟩) (fun t => t.cursor) =
    some (Config.advance 65#8 10 0) := rfl

/-- PO5: the buffers are not cleared. -/
theorem test_screen_clear : see (((fresh [0x1A#8, 0x00#8]).setCursor ⟨3, 4⟩).appendSerial 1#8) (fun t => (t.trace, t.serialBuf, t.pc)) =
    some ([.clearScreen], [1#8], 2) := by decide

/-- PO5: the cursor goes home. -/
theorem test_screen_clear_cursor : see ((fresh [0x1A#8, 0x00#8]).setCursor ⟨3, 4⟩) (fun t => t.cursor) =
    some Config.cursorHome := rfl

/-- PO6. -/
theorem test_draw_pixel : see ((((fresh [0x1B#8, 0x02#8, 0x05#8, 0x06#8]).setReg 5 10#8).setReg 6 246#8).setCursor ⟨3, 4⟩)
    (fun t => (t.trace, t.cursor)) = some ([.drawPixel 10#8 246#8], ⟨3, 4⟩) := by decide

/-- PO8. -/
theorem test_move_x : see (((fresh [0x1C#8, 0x01#8, 0x05#8]).setReg 5 10#8).setCursor ⟨3, 4⟩) (fun t => (t.cursor, t.trace)) =
    some (⟨10, 4⟩, [.cursorMoved 10 4]) := by decide

/-- PO9. -/
theorem test_move_y : see (((fresh [0x1D#8, 0x01#8, 0x02#8]).setReg 2 7#8).setCursor ⟨10, 4⟩) (fun t => (t.cursor, t.trace)) =
    some (⟨10, 7⟩, [.cursorMoved 10 7]) := by decide

/-- DA3: the low byte comes first. -/
theorem test_delay : see (fresh [0x16#8, 0x02#8, 0x00#8, 0x01#8]) (fun t => (t.delay, t.pc)) = some (256#16, 4) := by decide

/-- DA5. -/
theorem test_delay_largest : see (fresh [0x16#8, 0x02#8, 0xFF#8, 0xFF#8]) (fun t => t.delay) = some 65535#16 := by decide

/-- The READ_ADC table of 2.6. -/
theorem test_adc_value : [0, 1, 255, 256, 300, 4094, 4095, 4096, 4100, 100000, -1, -256].map adcValue =
    [0#8, 1#8, 255#8, 0#8, 44#8, 254#8, 255#8, 255#8, 255#8, 255#8, 255#8, 0#8] := by decide

/-- READ_ADC draws one answer; a faulting one draws none. -/
theorem test_read_adc : see (fresh [0x17#8, 0x01#8, 0x07#8]) (fun t => t.adcDraws) = some 1 ∧
    see (fresh [0x17#8, 0x01#8, 0x10#8]) (fun t => t.adcDraws) = some 0 := by decide

/-! ### The host -/

/-- LH5: a load after a fault leaves the fresh state. -/
theorem test_reload : ((State.load ((fresh [0x20#8]).raise .unknownOpcode (some 0x20#8)) [0x1A#8, 0x00#8] (Vector.replicate 40 false)).1.fault,
    (State.load ((fresh [0x20#8]).raise .unknownOpcode (some 0x20#8)) [0x1A#8, 0x00#8] (Vector.replicate 40 false)).1.running) =
    (none, true) := by decide

/-- A step's label. -/
theorem test_reports : (fresh [0x1A#8, 0x00#8]).stepReport = .executed ∧ (fresh [0x20#8]).stepReport =
      .faulted ⟨.unknownOpcode, some 0x20#8, 0⟩ ∧ ((fresh []).setDelay 3#16).stepReport = .stalled ∧
    (fresh []).halt.stepReport = .halted := by decide

/-! ### Memory -/

theorem test_memory_write : Memory.write [(1, 7#8), (4, 9#8)] 2 5#8 = [(1, 7#8), (2, 5#8), (4, 9#8)] ∧
    Memory.read [(1, 7#8), (4, 9#8)] 4 = some 9#8 ∧ Memory.read [(1, 7#8), (4, 9#8)] 2 = none := by decide

/-! ### Witnesses: states and operands that meet the hypotheses of the statements -/

theorem witness_LoadImmWritesValue :
    (fresh [0x01#8, 0x02#8, 0x0F#8, 0x0F#8]).Ready ∧ ([0x0F#8, 0x0F#8] : List Byte).length ≤ 255 ∧ (fresh [0x01#8, 0x02#8, 0x0F#8, 0x0F#8]).BytesAtPc (0x01#8 :: BitVec.ofNat 8 ([0x0F#8, 0x0F#8] : List Byte).length :: [0x0F#8, 0x0F#8]) ∧
    (fresh [0x01#8]).Ready ∧ (fresh [0x01#8]).memRead (fresh [0x01#8]).pc = some 0x01#8 ∧ RecordCut (fresh [0x01#8]) ∧
    ([] : List Byte).length < 2 ∧ 2 ≤ ([0x10#8, 0x00#8] : List Byte).length ∧ 16 ≤ (0x10#8 : Byte).toNat ∧ (0x0F#8 : Byte).toNat < 16 :=
  ⟨by decide, by decide, by decide, by decide, by decide, .inl (by decide), by decide, by decide, by decide, by decide⟩

theorem witness_StoreGpioWritesBitZero :
    (fresh [0x02#8, 0x02#8, 0x0F#8, 0x0F#8]).Ready ∧ ([0x0F#8, 0x0F#8] : List Byte).length ≤ 255 ∧ (fresh [0x02#8, 0x02#8, 0x0F#8, 0x0F#8]).BytesAtPc (0x02#8 :: BitVec.ofNat 8 ([0x0F#8, 0x0F#8] : List Byte).length :: [0x0F#8, 0x0F#8]) ∧
    (fresh [0x02#8]).Ready ∧ (fresh [0x02#8]).memRead (fresh [0x02#8]).pc = some 0x02#8 ∧ RecordCut (fresh [0x02#8]) ∧
    ([] : List Byte).length < 2 ∧ 2 ≤ ([0x10#8, 0x00#8] : List Byte).length ∧ 16 ≤ (0x10#8 : Byte).toNat ∧ (0x0F#8 : Byte).toNat < 16 ∧
    (0x27#8 : Byte).toNat < 40 ∧ 40 ≤ (0x28#8 : Byte).toNat :=
  ⟨by decide, by decide, by decide, by decide, by decide, .inl (by decide), by decide, by decide, by decide, by decide, by decide, by decide⟩

theorem witness_LoadGpioReadsPin :
    (fresh [0x03#8, 0x02#8, 0x0F#8, 0x0F#8]).Ready ∧ ([0x0F#8, 0x0F#8] : List Byte).length ≤ 255 ∧ (fresh [0x03#8, 0x02#8, 0x0F#8, 0x0F#8]).BytesAtPc (0x03#8 :: BitVec.ofNat 8 ([0x0F#8, 0x0F#8] : List Byte).length :: [0x0F#8, 0x0F#8]) ∧
    (fresh [0x03#8]).Ready ∧ (fresh [0x03#8]).memRead (fresh [0x03#8]).pc = some 0x03#8 ∧ RecordCut (fresh [0x03#8]) ∧
    ([] : List Byte).length < 2 ∧ 2 ≤ ([0x10#8, 0x00#8] : List Byte).length ∧ 16 ≤ (0x10#8 : Byte).toNat ∧ (0x0F#8 : Byte).toNat < 16 ∧
    (0x27#8 : Byte).toNat < 40 ∧ 40 ≤ (0x28#8 : Byte).toNat :=
  ⟨by decide, by decide, by decide, by decide, by decide, .inl (by decide), by decide, by decide, by decide, by decide, by decide, by decide⟩

theorem witness_JumpGoesToTarget :
    (fresh [0x04#8, 0x01#8, 0xFF#8]).Ready ∧ ([0xFF#8] : List Byte).length ≤ 255 ∧ (fresh [0x04#8, 0x01#8, 0xFF#8]).BytesAtPc (0x04#8 :: BitVec.ofNat 8 ([0xFF#8] : List Byte).length :: [0xFF#8]) ∧
    (fresh [0x04#8]).Ready ∧ (fresh [0x04#8]).memRead (fresh [0x04#8]).pc = some 0x04#8 ∧ RecordCut (fresh [0x04#8]) ∧
    ([] : List Byte).length < 1 ∧
    (fresh [0x04#8, 0x01#8, 0x00#8]).Ready ∧ (fresh [0x04#8, 0x01#8, 0x00#8]).pc = (0x00#8 : Byte).toNat ∧
    (fresh [0x04#8, 0x01#8, 0x00#8]).BytesAtPc (encode (.jump [0x00#8])) :=
  ⟨by decide, by decide, by decide, by decide, by decide, .inl (by decide), by decide, by decide, by decide, by decide⟩

theorem witness_SerialWriteAppendsByte :
    (fresh [0x05#8, 0x01#8, 0x0F#8]).Ready ∧ ([0x0F#8] : List Byte).length ≤ 255 ∧ (fresh [0x05#8, 0x01#8, 0x0F#8]).BytesAtPc (0x05#8 :: BitVec.ofNat 8 ([0x0F#8] : List Byte).length :: [0x0F#8]) ∧
    (fresh [0x05#8]).Ready ∧ (fresh [0x05#8]).memRead (fresh [0x05#8]).pc = some 0x05#8 ∧ RecordCut (fresh [0x05#8]) ∧
    ([] : List Byte).length < 1 ∧ 1 ≤ ([0x10#8] : List Byte).length ∧ 16 ≤ (0x10#8 : Byte).toNat ∧ (0x0F#8 : Byte).toNat < 16 :=
  ⟨by decide, by decide, by decide, by decide, by decide, .inl (by decide), by decide, by decide, by decide, by decide⟩

theorem witness_AddWrapsModulo256 :
    (fresh [0x11#8, 0x02#8, 0x0F#8, 0x0F#8]).Ready ∧ ([0x0F#8, 0x0F#8] : List Byte).length ≤ 255 ∧ (fresh [0x11#8, 0x02#8, 0x0F#8, 0x0F#8]).BytesAtPc (0x11#8 :: BitVec.ofNat 8 ([0x0F#8, 0x0F#8] : List Byte).length :: [0x0F#8, 0x0F#8]) ∧
    (fresh [0x11#8]).Ready ∧ (fresh [0x11#8]).memRead (fresh [0x11#8]).pc = some 0x11#8 ∧ RecordCut (fresh [0x11#8]) ∧
    ([] : List Byte).length < 2 ∧ (16 ≤ (0x0F#8 : Byte).toNat ∨ 16 ≤ (0x10#8 : Byte).toNat) ∧ (0x0F#8 : Byte).toNat < 16 :=
  ⟨by decide, by decide, by decide, by decide, by decide, .inl (by decide), by decide, by decide, by decide⟩

theorem witness_SubWrapsModulo256 :
    (fresh [0x12#8, 0x02#8, 0x0F#8, 0x0F#8]).Ready ∧ ([0x0F#8, 0x0F#8] : List Byte).length ≤ 255 ∧ (fresh [0x12#8, 0x02#8, 0x0F#8, 0x0F#8]).BytesAtPc (0x12#8 :: BitVec.ofNat 8 ([0x0F#8, 0x0F#8] : List Byte).length :: [0x0F#8, 0x0F#8]) ∧
    (fresh [0x12#8]).Ready ∧ (fresh [0x12#8]).memRead (fresh [0x12#8]).pc = some 0x12#8 ∧ RecordCut (fresh [0x12#8]) ∧
    ([] : List Byte).length < 2 ∧ (16 ≤ (0x0F#8 : Byte).toNat ∨ 16 ≤ (0x10#8 : Byte).toNat) ∧ (0x0F#8 : Byte).toNat < 16 :=
  ⟨by decide, by decide, by decide, by decide, by decide, .inl (by decide), by decide, by decide, by decide⟩

theorem witness_CompareSetsFlagBySign :
    (fresh [0x13#8, 0x02#8, 0x0F#8, 0x0F#8]).Ready ∧ ([0x0F#8, 0x0F#8] : List Byte).length ≤ 255 ∧ (fresh [0x13#8, 0x02#8, 0x0F#8, 0x0F#8]).BytesAtPc (0x13#8 :: BitVec.ofNat 8 ([0x0F#8, 0x0F#8] : List Byte).length :: [0x0F#8, 0x0F#8]) ∧
    (fresh [0x13#8]).Ready ∧ (fresh [0x13#8]).memRead (fresh [0x13#8]).pc = some 0x13#8 ∧ RecordCut (fresh [0x13#8]) ∧
    ([] : List Byte).length < 2 ∧ (16 ≤ (0x0F#8 : Byte).toNat ∨ 16 ≤ (0x10#8 : Byte).toNat) ∧ (0x0F#8 : Byte).toNat < 16 :=
  ⟨by decide, by decide, by decide, by decide, by decide, .inl (by decide), by decide, by decide, by decide⟩

theorem witness_JumpEqTakenOnZero :
    (fresh [0x14#8, 0x01#8, 0xFF#8]).Ready ∧ ([0xFF#8] : List Byte).length ≤ 255 ∧ (fresh [0x14#8, 0x01#8, 0xFF#8]).BytesAtPc (0x14#8 :: BitVec.ofNat 8 ([0xFF#8] : List Byte).length :: [0xFF#8]) ∧
    (fresh [0x14#8]).Ready ∧ (fresh [0x14#8]).memRead (fresh [0x14#8]).pc = some 0x14#8 ∧ RecordCut (fresh [0x14#8]) ∧
    ([] : List Byte).length < 1 ∧
    (fresh []).flag = .unset ∧ ((fresh []).setFlag .zero).flag = .zero ∧ ((fresh []).setFlag .zero).flag ≠ .unset ∧
    ¬ (((fresh []).setFlag .plus).flag = .zero) ∧ ((fresh []).setFlag .plus).flag ≠ .unset :=
  ⟨by decide, by decide, by decide, by decide, by decide, .inl (by decide), by decide, by decide, by decide, by decide, by decide, by decide⟩

theorem witness_JumpNeqTakenOnNonzero :
    (fresh [0x15#8, 0x01#8, 0xFF#8]).Ready ∧ ([0xFF#8] : List Byte).length ≤ 255 ∧ (fresh [0x15#8, 0x01#8, 0xFF#8]).BytesAtPc (0x15#8 :: BitVec.ofNat 8 ([0xFF#8] : List Byte).length :: [0xFF#8]) ∧
    (fresh [0x15#8]).Ready ∧ (fresh [0x15#8]).memRead (fresh [0x15#8]).pc = some 0x15#8 ∧ RecordCut (fresh [0x15#8]) ∧
    ([] : List Byte).length < 1 ∧
    (fresh []).flag = .unset ∧ (((fresh []).setFlag .minus).flag = .minus ∨ ((fresh []).setFlag .minus).flag = .plus) ∧ ((fresh []).setFlag .minus).flag ≠ .unset ∧
    ¬ (((fresh []).setFlag .zero).flag = .minus ∨ ((fresh []).setFlag .zero).flag = .plus) ∧ ((fresh []).setFlag .zero).flag ≠ .unset :=
  ⟨by decide, by decide, by decide, by decide, by decide, .inl (by decide), by decide, by decide, by decide, by decide, by decide, by decide⟩

theorem witness_DelayLoadsCount :
    (fresh [0x16#8, 0x02#8, 0x0F#8, 0x0F#8]).Ready ∧ ([0x0F#8, 0x0F#8] : List Byte).length ≤ 255 ∧ (fresh [0x16#8, 0x02#8, 0x0F#8, 0x0F#8]).BytesAtPc (0x16#8 :: BitVec.ofNat 8 ([0x0F#8, 0x0F#8] : List Byte).length :: [0x0F#8, 0x0F#8]) ∧
    (fresh [0x16#8]).Ready ∧ (fresh [0x16#8]).memRead (fresh [0x16#8]).pc = some 0x16#8 ∧ RecordCut (fresh [0x16#8]) ∧
    ([] : List Byte).length < 2 :=
  ⟨by decide, by decide, by decide, by decide, by decide, .inl (by decide), by decide⟩

theorem witness_ReadAdcClampsThenTruncates :
    (fresh [0x17#8, 0x01#8, 0x0F#8]).Ready ∧ ([0x0F#8] : List Byte).length ≤ 255 ∧ (fresh [0x17#8, 0x01#8, 0x0F#8]).BytesAtPc (0x17#8 :: BitVec.ofNat 8 ([0x0F#8] : List Byte).length :: [0x0F#8]) ∧
    (fresh [0x17#8]).Ready ∧ (fresh [0x17#8]).memRead (fresh [0x17#8]).pc = some 0x17#8 ∧ RecordCut (fresh [0x17#8]) ∧
    ([] : List Byte).length < 1 ∧ 1 ≤ ([0x10#8] : List Byte).length ∧ 16 ≤ (0x10#8 : Byte).toNat ∧ (0x0F#8 : Byte).toNat < 16 :=
  ⟨by decide, by decide, by decide, by decide, by decide, .inl (by decide), by decide, by decide, by decide, by decide⟩

theorem witness_SpiWriteAppendsByte :
    (fresh [0x18#8, 0x01#8, 0x0F#8]).Ready ∧ ([0x0F#8] : List Byte).length ≤ 255 ∧ (fresh [0x18#8, 0x01#8, 0x0F#8]).BytesAtPc (0x18#8 :: BitVec.ofNat 8 ([0x0F#8] : List Byte).length :: [0x0F#8]) ∧
    (fresh [0x18#8]).Ready ∧ (fresh [0x18#8]).memRead (fresh [0x18#8]).pc = some 0x18#8 ∧ RecordCut (fresh [0x18#8]) ∧
    ([] : List Byte).length < 1 ∧ 1 ≤ ([0x10#8] : List Byte).length ∧ 16 ≤ (0x10#8 : Byte).toNat ∧ (0x0F#8 : Byte).toNat < 16 :=
  ⟨by decide, by decide, by decide, by decide, by decide, .inl (by decide), by decide, by decide, by decide, by decide⟩

theorem witness_ScreenPrintEmitsThenAdvances :
    (fresh [0x19#8, 0x01#8, 0x0F#8]).Ready ∧ ([0x0F#8] : List Byte).length ≤ 255 ∧ (fresh [0x19#8, 0x01#8, 0x0F#8]).BytesAtPc (0x19#8 :: BitVec.ofNat 8 ([0x0F#8] : List Byte).length :: [0x0F#8]) ∧
    (fresh [0x19#8]).Ready ∧ (fresh [0x19#8]).memRead (fresh [0x19#8]).pc = some 0x19#8 ∧ RecordCut (fresh [0x19#8]) ∧
    ([] : List Byte).length < 1 ∧ 1 ≤ ([0x10#8] : List Byte).length ∧ 16 ≤ (0x10#8 : Byte).toNat ∧ (0x0F#8 : Byte).toNat < 16 :=
  ⟨by decide, by decide, by decide, by decide, by decide, .inl (by decide), by decide, by decide, by decide, by decide⟩

theorem witness_ScreenClearHomesCursor :
    (fresh [0x1A#8, 0x00#8]).Ready ∧ ([] : List Byte).length ≤ 255 ∧ (fresh [0x1A#8, 0x00#8]).BytesAtPc (0x1A#8 :: BitVec.ofNat 8 ([] : List Byte).length :: []) ∧
    (fresh [0x1A#8]).Ready ∧ (fresh [0x1A#8]).memRead (fresh [0x1A#8]).pc = some 0x1A#8 ∧ RecordCut (fresh [0x1A#8]) :=
  ⟨by decide, by decide, by decide, by decide, by decide, .inl (by decide)⟩

theorem witness_DrawPixelEmitsRegisterValues :
    (fresh [0x1B#8, 0x02#8, 0x0F#8, 0x0F#8]).Ready ∧ ([0x0F#8, 0x0F#8] : List Byte).length ≤ 255 ∧ (fresh [0x1B#8, 0x02#8, 0x0F#8, 0x0F#8]).BytesAtPc (0x1B#8 :: BitVec.ofNat 8 ([0x0F#8, 0x0F#8] : List Byte).length :: [0x0F#8, 0x0F#8]) ∧
    (fresh [0x1B#8]).Ready ∧ (fresh [0x1B#8]).memRead (fresh [0x1B#8]).pc = some 0x1B#8 ∧ RecordCut (fresh [0x1B#8]) ∧
    ([] : List Byte).length < 2 ∧ (16 ≤ (0x0F#8 : Byte).toNat ∨ 16 ≤ (0x10#8 : Byte).toNat) ∧ (0x0F#8 : Byte).toNat < 16 :=
  ⟨by decide, by decide, by decide, by decide, by decide, .inl (by decide), by decide, by decide, by decide⟩

theorem witness_MoveXSetsCursorX :
    (fresh [0x1C#8, 0x01#8, 0x0F#8]).Ready ∧ ([0x0F#8] : List Byte).length ≤ 255 ∧ (fresh [0x1C#8, 0x01#8, 0x0F#8]).BytesAtPc (0x1C#8 :: BitVec.ofNat 8 ([0x0F#8] : List Byte).length :: [0x0F#8]) ∧
    (fresh [0x1C#8]).Ready ∧ (fresh [0x1C#8]).memRead (fresh [0x1C#8]).pc = some 0x1C#8 ∧ RecordCut (fresh [0x1C#8]) ∧
    ([] : List Byte).length < 1 ∧ 1 ≤ ([0x10#8] : List Byte).length ∧ 16 ≤ (0x10#8 : Byte).toNat ∧ (0x0F#8 : Byte).toNat < 16 :=
  ⟨by decide, by decide, by decide, by decide, by decide, .inl (by decide), by decide, by decide, by decide, by decide⟩

theorem witness_MoveYSetsCursorY :
    (fresh [0x1D#8, 0x01#8, 0x0F#8]).Ready ∧ ([0x0F#8] : List Byte).length ≤ 255 ∧ (fresh [0x1D#8, 0x01#8, 0x0F#8]).BytesAtPc (0x1D#8 :: BitVec.ofNat 8 ([0x0F#8] : List Byte).length :: [0x0F#8]) ∧
    (fresh [0x1D#8]).Ready ∧ (fresh [0x1D#8]).memRead (fresh [0x1D#8]).pc = some 0x1D#8 ∧ RecordCut (fresh [0x1D#8]) ∧
    ([] : List Byte).length < 1 ∧ 1 ≤ ([0x10#8] : List Byte).length ∧ 16 ≤ (0x10#8 : Byte).toNat ∧ (0x0F#8 : Byte).toNat < 16 :=
  ⟨by decide, by decide, by decide, by decide, by decide, .inl (by decide), by decide, by decide, by decide, by decide⟩

theorem witness_JumpGtTakenOnPlus :
    (fresh [0x1E#8, 0x01#8, 0xFF#8]).Ready ∧ ([0xFF#8] : List Byte).length ≤ 255 ∧ (fresh [0x1E#8, 0x01#8, 0xFF#8]).BytesAtPc (0x1E#8 :: BitVec.ofNat 8 ([0xFF#8] : List Byte).length :: [0xFF#8]) ∧
    (fresh [0x1E#8]).Ready ∧ (fresh [0x1E#8]).memRead (fresh [0x1E#8]).pc = some 0x1E#8 ∧ RecordCut (fresh [0x1E#8]) ∧
    ([] : List Byte).length < 1 ∧
    (fresh []).flag = .unset ∧ ((fresh []).setFlag .plus).flag = .plus ∧ ((fresh []).setFlag .plus).flag ≠ .unset ∧
    ¬ (((fresh []).setFlag .zero).flag = .plus) ∧ ((fresh []).setFlag .zero).flag ≠ .unset :=
  ⟨by decide, by decide, by decide, by decide, by decide, .inl (by decide), by decide, by decide, by decide, by decide, by decide, by decide⟩

theorem witness_JumpLtTakenOnMinus :
    (fresh [0x1F#8, 0x01#8, 0xFF#8]).Ready ∧ ([0xFF#8] : List Byte).length ≤ 255 ∧ (fresh [0x1F#8, 0x01#8, 0xFF#8]).BytesAtPc (0x1F#8 :: BitVec.ofNat 8 ([0xFF#8] : List Byte).length :: [0xFF#8]) ∧
    (fresh [0x1F#8]).Ready ∧ (fresh [0x1F#8]).memRead (fresh [0x1F#8]).pc = some 0x1F#8 ∧ RecordCut (fresh [0x1F#8]) ∧
    ([] : List Byte).length < 1 ∧
    (fresh []).flag = .unset ∧ ((fresh []).setFlag .minus).flag = .minus ∧ ((fresh []).setFlag .minus).flag ≠ .unset ∧
    ¬ (((fresh []).setFlag .zero).flag = .minus) ∧ ((fresh []).setFlag .zero).flag ≠ .unset :=
  ⟨by decide, by decide, by decide, by decide, by decide, .inl (by decide), by decide, by decide, by decide, by decide, by decide, by decide⟩

theorem witness_DecodeOfEncode : (Instr.screenClear (List.replicate 255 0#8)).LenFits ∧ (Instr.loadImm []).LenFits := by decide +kernel

theorem witness_EncodeOfDecode : decode [0x1A#8, 0x00#8, 0xFF#8] = .ok (.screenClear [], [0xFF#8]) := by decide

theorem witness_UnassignedOpcodesFault : [0x00#8, 0x06#8, 0x10#8, 0x20#8, 0xFF#8].all (fun b : Byte =>
    decide ((fresh [b]).Ready ∧ (fresh [b]).memRead (fresh [b]).pc = some b ∧
      (b.toNat = 0 ∨ (0x06 ≤ b.toNat ∧ b.toNat ≤ 0x10) ∨ 0x20 ≤ b.toNat))) = true := by decide

theorem witness_HaltedStepChangesNothing : (fresh []).halt.running = false ∧
    ((fresh []).setPc 4194304).running = true ∧ Config.flashCapacity ≤ ((fresh []).setPc 4194304).pc ∧
    (hostAct (.load [] (Vector.replicate 40 false)) (fresh []).halt).1.running = true := by decide

theorem witness_StalledStepDecrementsDelay : ((fresh []).setDelay 1#16).running = true ∧
    ((fresh []).setDelay 1#16).pc < Config.flashCapacity ∧ 0 < ((fresh []).setDelay 1#16).delay.toNat := by decide

theorem witness_StepRunsDecodedInstruction : (fresh [0x05#8, 0x01#8, 0x0F#8]).Ready ∧ (Instr.serialWrite [0x0F#8]).LenFits ∧
    (fresh [0x05#8, 0x01#8, 0x0F#8]).BytesAtPc (encode (.serialWrite [0x0F#8])) := by decide

/-- One state for each row of the order of checks from the fetch on; rows 1 and 2 have the witnesses of R101 and R102. -/
theorem witness_StepChecksInOrder :
    ((fresh []).Ready ∧ (fresh []).memRead (fresh []).pc = none) ∧
    ((fresh [0x20#8]).Ready ∧ (fresh [0x20#8]).memRead 0 = some 0x20#8 ∧ (selectOpcode 0x20#8).isNone = true) ∧
    ((fresh [0x01#8, 0x02#8, 0x03#8]).Ready ∧ (selectOpcode 0x01#8).isSome = true ∧ RecordCut (fresh [0x01#8, 0x02#8, 0x03#8])) ∧
    ((fresh [0x11#8, 0x01#8, 0x10#8]).BytesAtPc (encode (.add [0x10#8])) ∧ ¬ (Instr.add [0x10#8]).Enough) ∧
    ((fresh [0x11#8, 0x02#8, 0x01#8, 0x10#8]).BytesAtPc (encode (.add [0x01#8, 0x10#8])) ∧
      (Instr.add [0x01#8, 0x10#8]).Enough ∧ ¬ (Instr.add [0x01#8, 0x10#8]).RegistersValid) ∧
    ((fresh [0x14#8, 0x01#8, 0x00#8]).BytesAtPc (encode (.jumpEq [0x00#8])) ∧ (Instr.jumpEq [0x00#8]).WellFormed ∧
      conditional (.jumpEq [0x00#8]) = true ∧ (fresh [0x14#8, 0x01#8, 0x00#8]).flag = .unset) ∧
    ((fresh [0x04#8, 0x01#8, 0x00#8]).BytesAtPc (encode (.jump [0x00#8])) ∧ (Instr.jump [0x00#8]).WellFormed ∧
      conditional (.jump [0x00#8]) = false) :=
  ⟨by decide, by decide, ⟨by decide, by decide, .inr ⟨0x02#8, by decide, 1, by decide, by decide⟩⟩, by decide, by decide, by decide,
    by decide⟩

theorem witness_StepIsTotal : (fresh []).Ready := by decide

theorem witness_InstructionsCompleteAndAdvance : (Instr.jumpEq [0xFF#8]).Enough ∧ (Instr.jumpEq [0xFF#8]).RegistersValid ∧
    ((fresh []).setFlag .zero).flag ≠ .unset ∧ transfers (.jumpEq [0xFF#8]) ((fresh []).setFlag .zero).flag ∧
    (Instr.loadImm [0x0F#8, 0xFF#8]).Enough ∧ (Instr.loadImm [0x0F#8, 0xFF#8]).RegistersValid ∧
    ¬ transfers (.loadImm [0x0F#8, 0xFF#8]) (fresh []).flag :=
  ⟨by decide, by decide, by decide, rfl, by decide, by decide, id⟩

theorem witness_ExtraOperandsOnlyLengthen : selectOpcode 0x01#8 = some .loadImm ∧ (Instr.loadImm [0x00#8, 0x07#8]).Enough :=
  ⟨rfl, by decide⟩

theorem witness_FaultChangesOnlyRecordAndRunning :
    (∃ t, step (fresh [0x20#8]) = .next t ∧ t.fault ≠ (fresh [0x20#8]).fault) ∧
    ((fresh []).raise .fetchUnwritten none).FaultStops ∧
    ((fresh []).raise .fetchUnwritten none).fault = some ⟨.fetchUnwritten, none, 0⟩ :=
  ⟨⟨_, rfl, by decide⟩,
    ⟨fun _ => rfl, fun r h => (by cases h; rfl), fun r h => (by cases h; trivial), fun r h => (by cases h; rfl)⟩, rfl⟩

theorem witness_UnwrittenBytesFaultWhenFetched : ((fresh []).Ready ∧ (fresh []).imageLen ≤ (fresh []).pc) ∧
    ((fresh [0x01#8, 0x02#8, 0x03#8]).Ready ∧ (fresh [0x01#8, 0x02#8, 0x03#8]).memRead 0 = some 0x01#8 ∧
      RecordCut (fresh [0x01#8, 0x02#8, 0x03#8])) ∧
    ((fresh [0x04#8, 0x01#8, 0x40#8]).Ready ∧ (fresh [0x04#8, 0x01#8, 0x40#8]).imageLen ≤ (0x40#8 : Byte).toNat) :=
  ⟨by decide, ⟨by decide, by decide, .inr ⟨0x02#8, by decide, 1, by decide, by decide⟩⟩, by decide⟩

theorem witness_IllFormedOperandsFault : (Instr.add [0x10#8]).operands.length < (Instr.add [0x10#8]).nreq ∧
    (Instr.storeGpio [0x10#8, 0xFF#8]).nreq ≤ (Instr.storeGpio [0x10#8, 0xFF#8]).operands.length ∧
    ∃ r ∈ (Instr.storeGpio [0x10#8, 0xFF#8]).registerOperands, 16 ≤ r.toNat := by decide

theorem witness_StoreThenLoadGpio : (∃ t, exec (.storeGpio [0x04#8, 0x27#8]) ((fresh []).setReg 4 0x81#8) = .next t ∧
      t.gpio[39] = t.gpio[39] ∧ t.gpio[(39 : Fin 40)] ≠ (fresh []).gpio[(39 : Fin 40)]) ∧
    (0x04#8 : Byte).toNat < 16 ∧ (0x0F#8 : Byte).toNat < 16 ∧ (0x27#8 : Byte).toNat < 40 :=
  ⟨⟨_, rfl, rfl, by decide⟩, by decide⟩

/-- A running machine, a pc past the flash, and a stopped machine, for the two clauses. -/
theorem witness_DelayGatesFetch : (see (fresh [0x16#8, 0x02#8, 0x03#8, 0x00#8]) fun t =>
      decide (t.running = true ∧ t.pc < Config.flashCapacity ∧ 3 ≤ t.delay.toNat)) = some true ∧
    ((after (exec (.delay [0x05#8, 0x00#8]) (fresh []).halt)).map fun t => decide (t.running = false)) = some true ∧
    ((after (exec (.delay [0x05#8, 0x00#8]) ((fresh []).setPc 4194303))).map fun t => decide (Config.flashCapacity ≤ t.pc)) =
      some true := by decide

theorem witness_OnlyReadAdcCallsTheAdc : (∃ t, step (fresh [0x17#8, 0x01#8, 0x07#8]) = .next t) ∧
    (fresh [0x17#8, 0x01#8, 0x07#8]).Ready ∧ (Instr.readAdc [0x07#8]).WellFormed ∧
    (fresh [0x17#8, 0x01#8, 0x07#8]).BytesAtPc (encode (.readAdc [0x07#8])) ∧
    (∃ t, step (fresh []).halt = .next t) ∧ ¬ (fresh []).halt.Ready :=
  ⟨⟨_, rfl⟩, by decide, by decide, by decide, ⟨_, rfl⟩, by decide⟩

/-- A completing and a faulting instance of each frame. -/
theorem witness_RegisterWritersFrame : (∃ t, exec (.add [0x0F#8, 0x00#8]) (fresh []) = .next t) ∧
    (∃ t, exec (.readAdc []) (fresh []) = .next t) ∧ ([0x0F#8, 0x00#8] : List Byte).head?.map BitVec.toNat ≠ some (0 : Fin 16).val :=
  ⟨⟨_, rfl⟩, ⟨_, rfl⟩, by decide⟩

theorem witness_JumpsFrame : (∃ t, exec (.jump [0xFF#8]) (fresh []) = .next t) ∧ ∃ t, exec (.jumpEq [0xFF#8]) (fresh []) = .next t :=
  ⟨⟨_, rfl⟩, ⟨_, rfl⟩⟩

theorem witness_OutputInstructionsFrame : (∃ t, exec (.moveX [0x0F#8]) (fresh []) = .next t) ∧
    ∃ t, exec (.serialWrite [0x10#8]) (fresh []) = .next t := ⟨⟨_, rfl⟩, ⟨_, rfl⟩⟩

theorem witness_StoreCompareDelayFrame : (∃ t, exec (.storeGpio [0x00#8, 0x27#8]) (fresh []) = .next t) ∧
    ([0x00#8, 0x27#8] : List Byte)[1]?.map BitVec.toNat ≠ some (0 : Fin 40).val :=
  ⟨⟨_, rfl⟩, by decide⟩

theorem witness_FlagWrittenOnlyByCompare : (∃ t, step (fresh [0x13#8, 0x02#8, 0x00#8, 0x0F#8]) = .next t ∧
      t.flag ≠ (fresh [0x13#8, 0x02#8, 0x00#8, 0x0F#8]).flag) ∧
    conditional (.compare [0x00#8, 0x0F#8]) = false ∧ ∃ t, exec (.compare [0x00#8, 0x0F#8]) (fresh []) = .next t :=
  ⟨⟨_, rfl, by decide⟩, by decide, ⟨_, rfl⟩⟩

/-- A step, a host action that is no load, and a load that is too long. -/
theorem witness_OnlyLoadWritesMemory : (∃ t, step (fresh []) = .next t) ∧
    (∀ image g, HostAction.stop = .load image g → Config.flashCapacity < image.length) ∧
    ∃ image : List Byte, Config.flashCapacity < image.length :=
  ⟨⟨_, rfl⟩, fun _ _ h => (by cases h), ⟨List.replicate 4194305 0#8, by rw [List.length_replicate]; decide⟩⟩

theorem witness_EmittersAppendOneEvent : (∃ t, exec (.drawPixel [0x0F#8, 0x00#8]) (fresh []) = .next t) ∧
    emits (.drawPixel [0x0F#8, 0x00#8]) = true ∧ (Instr.drawPixel [0x0F#8, 0x00#8]).WellFormed ∧
    (∃ t, exec (.drawPixel [0x0F#8, 0x10#8]) (fresh []) = .next t) ∧ ¬ (Instr.drawPixel [0x0F#8, 0x10#8]).RegistersValid :=
  ⟨⟨_, rfl⟩, by decide, by decide, ⟨_, rfl⟩, by decide⟩

theorem witness_ComputationIgnoresOutputs : SameCore (fresh []) (((fresh []).emit .clearScreen).setCursor ⟨3, 4⟩) ∧
    fresh [] ≠ ((fresh []).emit .clearScreen).setCursor ⟨3, 4⟩ :=
  ⟨⟨rfl, rfl, rfl, rfl, rfl, rfl, rfl, rfl, rfl, rfl⟩, fun h => absurd (congrArg State.trace h) (by decide)⟩

/-- A stopped machine meets the invariant, and a step is taken from it. -/
theorem witness_StepKeepsConsistent : State.reset.halt.Consistent ∧ ∃ t, step State.reset.halt = .next t :=
  ⟨{ image := ⟨List.Pairwise.nil, by decide, fun o => by simp [State.reset, State.halt, Memory.read, Memory.unlisted]⟩
     ram := ⟨List.Pairwise.nil, by simp [State.reset, State.halt]⟩
     fault := ⟨by simp [State.reset, State.halt], by simp [State.reset, State.halt], by simp [State.reset, State.halt], by simp [State.reset, State.halt]⟩
     buffers := ⟨rfl, rfl⟩
     pc := by decide }, ⟨_, rfl⟩⟩

theorem witness_HostActionsKeepConsistent : State.reset.halt.Consistent := witness_StepKeepsConsistent.1

theorem witness_LoadEstablishesFreshState : ([0x1A#8, 0x00#8] : List Byte).length ≤ Config.flashCapacity ∧
    ([] : List Byte).length ≤ Config.flashCapacity := by decide

theorem witness_OversizedLoadRejected : Config.flashCapacity < (List.replicate 4194305 (0#8 : Byte)).length := by
  rw [List.length_replicate]
  decide

theorem witness_ResetIsEmptyLoad : State.reset.gpioMode = Config.gpioMode ∧ State.reset.ram = [] ∧ State.reset.adcDraws = 0 :=
  ⟨rfl, rfl, rfl⟩

theorem witness_RunIsRepeatedStep : (∃ t, step (fresh []) = .next t) ∧ (State.runSteps 1 (fresh [])).running = false :=
  ⟨⟨_, rfl⟩, by decide⟩

theorem witness_StepReportNamesOutcome : (fresh []).halt.running = false ∧ (fresh []).Ready ∧
    ((fresh []).setDelay 1#16).running = true ∧ 0 < ((fresh []).setDelay 1#16).delay.toNat := by decide

end Sys2Proof.Tests
end

section
/-! SUPPORT. What an instruction can do, said once: its operands and the flag decide whether it faults
(40_step_cycle.md R104, R106; 42_control_transfer.md R141); otherwise it applies a fixed function of the state. -/

namespace Sys2Proof.Machine

open Sys2Proof.Claims

/-! ### When an instruction faults -/

/-- The fault that an instruction's operands raise in every state (60_exceptions.md R244, R245). -/
def OperandFault (i : Instr) (k : FaultKind) : Prop :=
  (k = .operandsShort ∧ ¬ i.Enough) ∨ (k = .badRegister ∧ i.Enough ∧ ¬ i.RegistersValid)

/-- The operands raise no fault. -/
def OperandsGood (i : Instr) : Prop := i.Enough ∧ i.RegistersValid

/-- The fault that an instruction raises where the flag is `fl`. -/
inductive Faults (i : Instr) (fl : CompareFlag) : FaultKind → Prop
  | operands {k : FaultKind} (h : OperandFault i k) : Faults i fl k
  | flagUnset (hgood : OperandsGood i) (hcond : conditional i = true) (hflag : fl = .unset) : Faults i fl .flagUnset

theorem OperandFault.not_good {i : Instr} {k : FaultKind} (h : OperandFault i k) : ¬ OperandsGood i := by
  rintro ⟨he, hv⟩
  rcases h with ⟨-, h⟩ | ⟨-, -, h⟩
  · exact h he
  · exact h hv

theorem OperandFault.unique {i : Instr} {k k' : FaultKind} (h : OperandFault i k) (h' : OperandFault i k') : k = k' := by
  rcases h with ⟨rfl, h⟩ | ⟨rfl, he, -⟩ <;> rcases h' with ⟨rfl, h'⟩ | ⟨rfl, he', -⟩
  · rfl
  · exact absurd he' h
  · exact absurd he h'
  · rfl

/-- A known opcode fits the record of any fault its instruction raises. -/
theorem Faults.opcodeFits {i : Instr} {fl : CompareFlag} {k : FaultKind} (h : Faults i fl k) (pc : Nat) :
    FaultRecord.OpcodeFits { kind := k, opcode := some i.opcode, pc := pc } := by
  obtain ⟨make, hs, -⟩ := selectOpcode_opcode i
  cases h with
  | operands h => rcases h with ⟨rfl, -⟩ | ⟨rfl, -⟩ <;> simp [FaultRecord.OpcodeFits, hs]
  | flagUnset => simp [FaultRecord.OpcodeFits, hs]

/-! ### Reading the operands -/

/-- A read of the operands fails with the fault the operands raise, and succeeds only where they raise none. -/
def ReadsOperands (i : Instr) {α : Type} : Except FaultKind α → Prop
  | .error k => OperandFault i k
  | .ok _ => OperandsGood i

theorem OperandFault.read_eq {i : Instr} {k : FaultKind} {α : Type} {read : Except FaultKind α}
    (h : OperandFault i k) (hread : ReadsOperands i read) : read = .error k := by
  cases read with
  | error k' => rw [OperandFault.unique h hread]
  | ok a => exact absurd hread h.not_good

theorem readsOperandsN {i : Instr} (ops : List Byte) (hfmt : i.format = .n) : ReadsOperands i (operandsN ops) := by
  simp [operandsN, ReadsOperands, OperandsGood, Instr.nreq, Instr.RegistersValid, Instr.registerOperands, hfmt,
    Format.nreq, Format.registers]

section
variable {i : Instr} (ops : List Byte) (hops : i.operands = ops)
include hops

theorem readsOperandsR (hfmt : i.format = .r) : ReadsOperands i (operandsR ops) := by
  rcases operandsR_cases ops with ⟨h, e⟩ | ⟨r, extra, rfl, h, e⟩ | ⟨r, extra, h, rfl, e⟩ <;> rw [e] <;>
    simpa [ReadsOperands, OperandFault, OperandsGood, Instr.nreq, Instr.RegistersValid, Instr.registerOperands, hfmt,
      hops, Format.nreq, Format.registers] using h

theorem readsOperandsA (hfmt : i.format = .a) : ReadsOperands i (operandsA ops) := by
  rcases operandsA_cases ops with ⟨h, e⟩ | ⟨addr, extra, rfl, e⟩ <;> rw [e]
  · simpa [ReadsOperands, OperandFault, Instr.nreq, hfmt, hops, Format.nreq] using h
  · simp [ReadsOperands, OperandsGood, Instr.nreq, Instr.RegistersValid, Instr.registerOperands, hfmt, hops,
      Format.nreq, Format.registers]

theorem readsOperandsRR (hfmt : i.format = .rr) : ReadsOperands i (operandsRR ops) := by
  rcases operandsRR_cases ops with ⟨h, e⟩ | ⟨a, b, extra, rfl, h, e⟩ | ⟨a, b, extra, ha, hb, rfl, e⟩ <;> rw [e]
  · simpa [ReadsOperands, OperandFault, Instr.nreq, hfmt, hops, Format.nreq] using h
  · simpa [ReadsOperands, OperandFault, Instr.nreq, Instr.RegistersValid, Instr.registerOperands, hfmt, hops,
      Format.nreq, Format.registers, imp_iff_not_or] using h
  · simp [ReadsOperands, OperandsGood, Instr.nreq, Instr.RegistersValid, Instr.registerOperands, hfmt, hops,
      Format.nreq, Format.registers, ha, hb]

theorem readsOperandsRI (hfmt : i.format = .ri) : ReadsOperands i (operandsRI ops) := by
  rcases operandsRI_cases ops with ⟨h, e⟩ | ⟨r, v, extra, rfl, h, e⟩ | ⟨r, v, extra, h, rfl, e⟩ <;> rw [e] <;>
    simpa [ReadsOperands, OperandFault, OperandsGood, Instr.nreq, Instr.RegistersValid, Instr.registerOperands, hfmt,
      hops, Format.nreq, Format.registers] using h

theorem readsOperandsII (hfmt : i.format = .ii) : ReadsOperands i (operandsII ops) := by
  rcases operandsII_cases ops with ⟨h, e⟩ | ⟨lo, hi, extra, rfl, e⟩ <;> rw [e]
  · simpa [ReadsOperands, OperandFault, Instr.nreq, hfmt, hops, Format.nreq] using h
  · simp [ReadsOperands, OperandsGood, Instr.nreq, Instr.RegistersValid, Instr.registerOperands, hfmt, hops,
      Format.nreq, Format.registers]

end

/-! ### What an instruction that raises no fault does -/

/-- A conditional jump whose flag is set: to `target` where the condition holds, else past the record. -/
def State.branch (cond : CompareFlag → Bool) (target len : Nat) (s : State) : State :=
  s.setPc (if cond s.flag then target else s.pc + 2 + len)

/-- `Completes i f`: the operands of `i` can be read, and where no UNSET flag faults `i`, it takes each state to its image
under `f`. The constructors are the instructions; the two that name a pin have one more, for the pins that do not exist. -/
inductive Completes : Instr → (State → State) → Prop
  | loadImm {ops : List Byte} {r : Reg} {v : Byte} (h : operandsRI ops = .ok (r, v)) :
    Completes (.loadImm ops) fun s => (s.setReg r v).advance ops.length
  | storeGpio {ops : List Byte} {r : Reg} {pin : Byte} {p : Pin} (h : operandsRI ops = .ok (r, pin))
    (hp : pinOperand pin = some p) : Completes (.storeGpio ops) fun s => (s.setPin p (bit0 (s.reg r))).advance ops.length
  | storeGpioNoPin {ops : List Byte} {r : Reg} {pin : Byte} (h : operandsRI ops = .ok (r, pin))
    (hp : pinOperand pin = none) : Completes (.storeGpio ops) fun s => s.advance ops.length
  | loadGpio {ops : List Byte} {r : Reg} {pin : Byte} {p : Pin} (h : operandsRI ops = .ok (r, pin))
    (hp : pinOperand pin = some p) : Completes (.loadGpio ops) fun s => (s.setReg r (zext8 (s.pin p))).advance ops.length
  | loadGpioNoPin {ops : List Byte} {r : Reg} {pin : Byte} (h : operandsRI ops = .ok (r, pin))
    (hp : pinOperand pin = none) : Completes (.loadGpio ops) fun s => s.advance ops.length
  | jump {ops : List Byte} {target : Nat} (h : operandsA ops = .ok target) :
    Completes (.jump ops) fun s => s.setPc target
  | serialWrite {ops : List Byte} {r : Reg} (h : operandsR ops = .ok r) :
    Completes (.serialWrite ops) fun s =>
      ((s.appendSerial (s.reg r)).emit (.serialByte (s.reg r))).advance ops.length
  | add {ops : List Byte} {r q : Reg} (h : operandsRR ops = .ok (r, q)) :
    Completes (.add ops) fun s => (s.setReg r (wrap8 ((s.reg r).toNat + (s.reg q).toNat))).advance ops.length
  | sub {ops : List Byte} {r q : Reg} (h : operandsRR ops = .ok (r, q)) :
    Completes (.sub ops) fun s => (s.setReg r (wrap8 ((s.reg r).toNat - (s.reg q).toNat))).advance ops.length
  | compare {ops : List Byte} {r q : Reg} (h : operandsRR ops = .ok (r, q)) :
    Completes (.compare ops) fun s => (s.setFlag (compareFlag (s.reg r) (s.reg q))).advance ops.length
  | jumpEq {ops : List Byte} {target : Nat} (h : operandsA ops = .ok target) :
    Completes (.jumpEq ops) (State.branch flagEq target ops.length)
  | jumpNeq {ops : List Byte} {target : Nat} (h : operandsA ops = .ok target) :
    Completes (.jumpNeq ops) (State.branch flagNeq target ops.length)
  | delay {ops : List Byte} {lo hi : Byte} (h : operandsII ops = .ok (lo, hi)) :
    Completes (.delay ops) fun s => (s.setDelay (delayCount lo hi)).advance ops.length
  | readAdc {ops : List Byte} {r : Reg} (h : operandsR ops = .ok r) :
    Completes (.readAdc ops) fun s => (s.drawAdc.setReg r (adcValue s.adcAnswer)).advance ops.length
  | spiWrite {ops : List Byte} {r : Reg} (h : operandsR ops = .ok r) :
    Completes (.spiWrite ops) fun s => ((s.appendSpi (s.reg r)).emit (.spiByte (s.reg r))).advance ops.length
  | screenPrint {ops : List Byte} {r : Reg} (h : operandsR ops = .ok r) :
    Completes (.screenPrint ops) fun s =>
      ((s.emit (.drawGlyphOrNewline (s.reg r) s.cursor.x s.cursor.y)).setCursor
        (Config.advance (s.reg r) s.cursor.x s.cursor.y)).advance ops.length
  | screenClear {ops : List Byte} :
    Completes (.screenClear ops) fun s => ((s.emit .clearScreen).setCursor Config.cursorHome).advance ops.length
  | drawPixel {ops : List Byte} {r q : Reg} (h : operandsRR ops = .ok (r, q)) :
    Completes (.drawPixel ops) fun s => (s.emit (.drawPixel (s.reg r) (s.reg q))).advance ops.length
  | moveX {ops : List Byte} {r : Reg} (h : operandsR ops = .ok r) :
    Completes (.moveX ops) fun s => (s.moveCursor { s.cursor with x := (s.reg r).toNat }).advance ops.length
  | moveY {ops : List Byte} {r : Reg} (h : operandsR ops = .ok r) :
    Completes (.moveY ops) fun s => (s.moveCursor { s.cursor with y := (s.reg r).toNat }).advance ops.length
  | jumpGt {ops : List Byte} {target : Nat} (h : operandsA ops = .ok target) :
    Completes (.jumpGt ops) (State.branch flagGt target ops.length)
  | jumpLt {ops : List Byte} {target : Nat} (h : operandsA ops = .ok target) :
    Completes (.jumpLt ops) (State.branch flagLt target ops.length)

/-- Good operands can be read, so an instruction that has them completes. -/
theorem ReadsOperands.ok_of_good {i : Instr} {α : Type} {read : Except FaultKind α} (hread : ReadsOperands i read)
    (h : OperandsGood i) : ∃ a, read = .ok a := by
  cases read with
  | error k => exact absurd h (OperandFault.not_good hread)
  | ok a => exact ⟨a, rfl⟩

/-- Every instruction with good operands completes. -/
theorem OperandsGood.completes {i : Instr} (hi : OperandsGood i) : ∃ f, Completes i f := by
  cases i with
  | loadImm ops =>
    obtain ⟨⟨r, v⟩, h⟩ := (readsOperandsRI ops rfl rfl).ok_of_good hi
    exact ⟨_, .loadImm h⟩
  | storeGpio ops =>
    obtain ⟨⟨r, pin⟩, h⟩ := (readsOperandsRI ops rfl rfl).ok_of_good hi
    cases hp : pinOperand pin with
    | none => exact ⟨_, .storeGpioNoPin h hp⟩
    | some p => exact ⟨_, .storeGpio h hp⟩
  | loadGpio ops =>
    obtain ⟨⟨r, pin⟩, h⟩ := (readsOperandsRI ops rfl rfl).ok_of_good hi
    cases hp : pinOperand pin with
    | none => exact ⟨_, .loadGpioNoPin h hp⟩
    | some p => exact ⟨_, .loadGpio h hp⟩
  | jump ops => exact ((readsOperandsA ops rfl rfl).ok_of_good hi).elim fun _ h => ⟨_, .jump h⟩
  | serialWrite ops => exact ((readsOperandsR ops rfl rfl).ok_of_good hi).elim fun _ h => ⟨_, .serialWrite h⟩
  | add ops => exact ((readsOperandsRR ops rfl rfl).ok_of_good hi).elim fun _ h => ⟨_, .add h⟩
  | sub ops => exact ((readsOperandsRR ops rfl rfl).ok_of_good hi).elim fun _ h => ⟨_, .sub h⟩
  | compare ops => exact ((readsOperandsRR ops rfl rfl).ok_of_good hi).elim fun _ h => ⟨_, .compare h⟩
  | jumpEq ops => exact ((readsOperandsA ops rfl rfl).ok_of_good hi).elim fun _ h => ⟨_, .jumpEq h⟩
  | jumpNeq ops => exact ((readsOperandsA ops rfl rfl).ok_of_good hi).elim fun _ h => ⟨_, .jumpNeq h⟩
  | delay ops => exact ((readsOperandsII ops rfl rfl).ok_of_good hi).elim fun _ h => ⟨_, .delay h⟩
  | readAdc ops => exact ((readsOperandsR ops rfl rfl).ok_of_good hi).elim fun _ h => ⟨_, .readAdc h⟩
  | spiWrite ops => exact ((readsOperandsR ops rfl rfl).ok_of_good hi).elim fun _ h => ⟨_, .spiWrite h⟩
  | screenPrint ops => exact ((readsOperandsR ops rfl rfl).ok_of_good hi).elim fun _ h => ⟨_, .screenPrint h⟩
  | screenClear ops => exact ⟨_, .screenClear⟩
  | drawPixel ops => exact ((readsOperandsRR ops rfl rfl).ok_of_good hi).elim fun _ h => ⟨_, .drawPixel h⟩
  | moveX ops => exact ((readsOperandsR ops rfl rfl).ok_of_good hi).elim fun _ h => ⟨_, .moveX h⟩
  | moveY ops => exact ((readsOperandsR ops rfl rfl).ok_of_good hi).elim fun _ h => ⟨_, .moveY h⟩
  | jumpGt ops => exact ((readsOperandsA ops rfl rfl).ok_of_good hi).elim fun _ h => ⟨_, .jumpGt h⟩
  | jumpLt ops => exact ((readsOperandsA ops rfl rfl).ok_of_good hi).elim fun _ h => ⟨_, .jumpLt h⟩

/-! ### `exec` -/

/-- The branch resolver on a target it can read and a flag that is set. -/
theorem resolveBranch_eq_branch {opcode : Byte} {cond : CompareFlag → Bool} {ops : List Byte} {target : Nat} {s : State}
    (h : operandsA ops = .ok target) (hflag : s.flag ≠ .unset) :
    resolveBranch opcode cond ops s = .next (s.branch cond target ops.length) := by
  cases hf : s.flag with
  | unset => exact absurd hf hflag
  | _ =>
    simp only [resolveBranch, h, hf, State.branch]
    split <;> rfl

/-- The branch resolver on a target it can read and an UNSET flag. -/
theorem resolveBranch_eq_flagUnset {opcode : Byte} {cond : CompareFlag → Bool} {ops : List Byte} {target : Nat} {s : State}
    (h : operandsA ops = .ok target) (hflag : s.flag = .unset) :
    resolveBranch opcode cond ops s = .next (s.raise .flagUnset (some opcode)) := by
  simp [resolveBranch, h, hflag]

/-- An instruction that completes, where no UNSET flag faults it. -/
theorem Completes.exec_eq {i : Instr} {f : State → State} {s : State} (h : Completes i f)
    (hflag : conditional i = true → s.flag ≠ .unset) : exec i s = .next (f s) := by
  cases h with
  | loadImm h => simp [exec, execLoadImm, h]
  | storeGpio h hp | storeGpioNoPin h hp => simp [exec, execStoreGpio, h, hp]
  | loadGpio h hp | loadGpioNoPin h hp => simp [exec, execLoadGpio, h, hp]
  | jump h => simp [exec, execJump, h]
  | serialWrite h => simp [exec, execSerialWrite, h]
  | add h => simp [exec, execAdd, h]
  | sub h => simp [exec, execSub, h]
  | compare h => simp [exec, execCompare, h]
  | delay h => simp [exec, execDelay, h]
  | readAdc h => simp [exec, execReadAdc, h]
  | spiWrite h => simp [exec, execSpiWrite, h]
  | screenPrint h => simp [exec, execScreenPrint, h]
  | screenClear => rfl
  | drawPixel h => simp [exec, execDrawPixel, h]
  | moveX h => simp [exec, execMoveX, h]
  | moveY h => simp [exec, execMoveY, h]
  | jumpEq h | jumpNeq h | jumpGt h | jumpLt h => exact resolveBranch_eq_branch h (hflag rfl)

/-- An instruction whose operands raise a fault. -/
theorem OperandFault.exec_eq {i : Instr} {k : FaultKind} (h : OperandFault i k) (s : State) :
    exec i s = .next (s.raise k (some i.opcode)) := by
  cases i with
  | loadImm ops => simp [exec, execLoadImm, h.read_eq (readsOperandsRI ops rfl rfl)]
  | storeGpio ops => simp [exec, execStoreGpio, h.read_eq (readsOperandsRI ops rfl rfl)]
  | loadGpio ops => simp [exec, execLoadGpio, h.read_eq (readsOperandsRI ops rfl rfl)]
  | jump ops => simp [exec, execJump, h.read_eq (readsOperandsA ops rfl rfl)]
  | serialWrite ops => simp [exec, execSerialWrite, h.read_eq (readsOperandsR ops rfl rfl)]
  | add ops => simp [exec, execAdd, h.read_eq (readsOperandsRR ops rfl rfl)]
  | sub ops => simp [exec, execSub, h.read_eq (readsOperandsRR ops rfl rfl)]
  | compare ops => simp [exec, execCompare, h.read_eq (readsOperandsRR ops rfl rfl)]
  | jumpEq ops => simp [exec, execJumpEq, resolveBranch, h.read_eq (readsOperandsA ops rfl rfl)]
  | jumpNeq ops => simp [exec, execJumpNeq, resolveBranch, h.read_eq (readsOperandsA ops rfl rfl)]
  | delay ops => simp [exec, execDelay, h.read_eq (readsOperandsII ops rfl rfl)]
  | readAdc ops => simp [exec, execReadAdc, h.read_eq (readsOperandsR ops rfl rfl)]
  | spiWrite ops => simp [exec, execSpiWrite, h.read_eq (readsOperandsR ops rfl rfl)]
  | screenPrint ops => simp [exec, execScreenPrint, h.read_eq (readsOperandsR ops rfl rfl)]
  | screenClear ops => exact absurd (readsOperandsN ops rfl) h.not_good
  | drawPixel ops => simp [exec, execDrawPixel, h.read_eq (readsOperandsRR ops rfl rfl)]
  | moveX ops => simp [exec, execMoveX, h.read_eq (readsOperandsR ops rfl rfl)]
  | moveY ops => simp [exec, execMoveY, h.read_eq (readsOperandsR ops rfl rfl)]
  | jumpGt ops => simp [exec, execJumpGt, resolveBranch, h.read_eq (readsOperandsA ops rfl rfl)]
  | jumpLt ops => simp [exec, execJumpLt, resolveBranch, h.read_eq (readsOperandsA ops rfl rfl)]

/-- A conditional jump with good operands where the flag is UNSET. -/
theorem exec_flagUnset {i : Instr} {s : State} (hi : OperandsGood i) (hcond : conditional i = true)
    (hflag : s.flag = .unset) : exec i s = .next (s.raise .flagUnset (some i.opcode)) := by
  obtain ⟨f, h⟩ := hi.completes
  cases h with
  | jumpEq h | jumpNeq h | jumpGt h | jumpLt h => exact resolveBranch_eq_flagUnset h hflag
  | _ => cases hcond

/-- An instruction that faults leaves the state that raising the fault leaves (60_exceptions.md R240). -/
theorem Faults.exec_eq {i : Instr} {s : State} {k : FaultKind} (h : Faults i s.flag k) :
    exec i s = .next (s.raise k (some i.opcode)) := by
  cases h with
  | operands h => exact h.exec_eq s
  | flagUnset hgood hcond hflag => exact exec_flagUnset hgood hcond hflag

/-- The operands raise a fault or are good. -/
theorem operandFault_or_good (i : Instr) : (∃ k, OperandFault i k) ∨ OperandsGood i := by
  by_cases he : i.Enough
  · by_cases hv : i.RegistersValid
    · exact .inr ⟨he, hv⟩
    · exact .inl ⟨_, .inr ⟨rfl, he, hv⟩⟩
  · exact .inl ⟨_, .inl ⟨rfl, he⟩⟩

/-- An instruction faults or completes, and its operands and the flag decide which. -/
theorem faults_or_completes (i : Instr) (fl : CompareFlag) :
    (∃ k, Faults i fl k) ∨ (OperandsGood i ∧ (conditional i = true → fl ≠ .unset) ∧ ∃ f, Completes i f) := by
  rcases operandFault_or_good i with ⟨k, h⟩ | hgood
  · exact .inl ⟨k, .operands h⟩
  · by_cases hc : conditional i = true ∧ fl = .unset
    · exact .inl ⟨_, .flagUnset hgood hc.1 hc.2⟩
    · exact .inr ⟨hgood, fun h1 h2 => hc ⟨h1, h2⟩, hgood.completes⟩

/-- Everything an executed instruction can do. -/
theorem exec_cases {i : Instr} {s t : State} (h : exec i s = .next t) :
    (∃ k, Faults i s.flag k ∧ t = s.raise k (some i.opcode)) ∨
    (OperandsGood i ∧ (conditional i = true → s.flag ≠ .unset) ∧ ∃ f, Completes i f ∧ t = f s) := by
  rcases faults_or_completes i s.flag with ⟨k, hk⟩ | ⟨hgood, hflag, f, hf⟩
  · exact .inl ⟨k, hk, by simpa using h.symm.trans hk.exec_eq⟩
  · exact .inr ⟨hgood, hflag, f, hf, by simpa using h.symm.trans (hf.exec_eq hflag)⟩

end Sys2Proof.Machine
end

section
/-! SUPPORT. Everything a step can do, and the induction over the steps of two runs that a relation ties together. -/

namespace Sys2Proof.Machine

open Sys2Proof.Claims

/-! ### One step -/

/-- `StepTo s t`: the next state of `s` is `t`. A constructor per way a step ends (40_step_cycle.md R109); every fault
records the byte at the program counter as its opcode (10_state.md R31). -/
inductive StepTo (s : State) : State → Prop
  | halts (h : s.mustHalt = true) : StepTo s s.halt
  | stalls (hrun : s.mustHalt = false) (hstall : s.mustStall = true) : StepTo s s.stall
  | faults (hready : s.Ready) {k : FaultKind} {o : Option Byte} (hbyte : o = s.memRead s.pc)
    (hfits : FaultRecord.OpcodeFits { kind := k, opcode := o, pc := s.pc }) : StepTo s (s.raise k o)
  | completes (hready : s.Ready) {i : Instr} {f : State → State} (hbytes : s.BytesAtPc (encode i))
    (hgood : OperandsGood i) (hflag : conditional i = true → s.flag ≠ .unset) (hf : Completes i f) : StepTo s (f s)

theorem State.mustHalt_eq_false_iff (s : State) :
    s.mustHalt = false ↔ s.running = true ∧ s.pc < Config.flashCapacity := by
  simp [State.mustHalt]

/-- The record at the program counter begins with the instruction's opcode. -/
theorem State.BytesAtPc.opcode {s : State} {i : Instr} (h : s.BytesAtPc (encode i)) : s.memRead s.pc = some i.opcode :=
  h 0 (by simp [encode])

/-- The record at the program counter lies within the image (20_memory.md R50). -/
theorem State.BytesAtPc.le_imageLen {s : State} {i : Instr} (h : s.BytesAtPc (encode i)) :
    s.pc + 2 + i.operands.length ≤ s.imageLen := by
  have := State.memRead_lt (h (i.operands.length + 1) (by simp [encode]))
  omega

/-- A fetch that fails raises a fault, whose kind and opcode the error gives. -/
theorem fetchTrap_raises (e : DecodeError) : ∃ k o, ∀ s : State, s.fetchTrap e = .next (s.raise k o) := by
  cases e <;> exact ⟨_, _, fun _ => rfl⟩

/-- A step has a next state, and this is how it comes about. -/
theorem step_total (s : State) : ∃ t, step s = .next t ∧ StepTo s t := by
  rcases step_start s with h | ⟨hrun, hstall⟩ | hready
  · exact ⟨_, step_halts h, .halts h⟩
  · exact ⟨_, step_stalls hrun hstall, .stalls hrun hstall⟩
  · rw [step_fetches hready]
    rcases s.fetch_cases with ⟨hm, e⟩ | ⟨opc, hm, hs, e⟩ | ⟨opc, make, hm, hs, -, e⟩ | ⟨i, after, -, hbytes, e⟩ <;> rw [e]
    · exact ⟨_, rfl, .faults hready hm.symm trivial⟩
    · exact ⟨_, rfl, .faults hready hm.symm hs⟩
    · exact ⟨_, rfl, .faults hready hm.symm (by simp [FaultRecord.OpcodeFits, hs])⟩
    · rcases faults_or_completes i s.flag with ⟨k, hk⟩ | ⟨hgood, hflag, f, hf⟩
      · exact ⟨_, hk.exec_eq, .faults hready hbytes.opcode.symm (hk.opcodeFits _)⟩
      · exact ⟨_, hf.exec_eq hflag, .completes hready hbytes hgood hflag hf⟩

/-- Everything a step can do. -/
theorem step_cases {s t : State} (h : step s = .next t) : StepTo s t := by
  obtain ⟨u, hu, hstep⟩ := step_total s
  have : u = t := by simpa using hu.symm.trans h
  exact this ▸ hstep

theorem stepped_eq_of_step {s t : State} (h : step s = .next t) : s.stepped = t := by simp [State.stepped, h]

/-- Everything `stepped` can be. -/
theorem stepTo_stepped (s : State) : StepTo s s.stepped := by
  obtain ⟨t, ht, hstep⟩ := step_total s
  rwa [stepped_eq_of_step ht]

/-! ### Two runs -/

/-- A relation that a step's checks and every effect of an instruction respect: related states agree on what decides the
way a step ends, and each way of ending takes related states to related states. -/
structure Simulation (R : State → State → Prop) : Prop where
  pc {s t : State} : R s t → s.pc = t.pc
  running {s t : State} : R s t → s.running = t.running
  delay {s t : State} : R s t → s.delay = t.delay
  flag {s t : State} : R s t → s.flag = t.flag
  memRead {s t : State} : R s t → ∀ o, s.memRead o = t.memRead o
  halt {s t : State} : R s t → R s.halt t.halt
  stall {s t : State} : R s t → R s.stall t.stall
  raise {s t : State} : R s t → ∀ k o, R (s.raise k o) (t.raise k o)
  completes {s t : State} : R s t → ∀ {i f}, Completes i f → R (f s) (f t)

namespace Simulation

variable {R : State → State → Prop} (hR : Simulation R) {s t : State}
include hR

/-- An instruction does related things to related states. -/
theorem exec (h : R s t) (i : Instr) : ∃ u v, exec i s = .next u ∧ exec i t = .next v ∧ R u v := by
  rcases faults_or_completes i s.flag with ⟨k, hk⟩ | ⟨-, hflag, f, hf⟩
  · exact ⟨_, _, hk.exec_eq, (hR.flag h ▸ hk).exec_eq, hR.raise h k _⟩
  · exact ⟨_, _, hf.exec_eq hflag, hf.exec_eq (hR.flag h ▸ hflag), hR.completes h hf⟩

/-- A step does related things to related states. -/
theorem step (h : R s t) : ∃ u v, step s = .next u ∧ step t = .next v ∧ R u v := by
  have hhalt : s.mustHalt = t.mustHalt := by simp [State.mustHalt, hR.running h, hR.pc h]
  have hstall : s.mustStall = t.mustStall := by simp [State.mustStall, hR.delay h]
  rcases step_start s with hs | ⟨hrun, hs⟩ | hs
  · exact ⟨_, _, step_halts hs, step_halts (hhalt ▸ hs), hR.halt h⟩
  · exact ⟨_, _, step_stalls hrun hs, step_stalls (hhalt ▸ hrun) (hstall ▸ hs), hR.stall h⟩
  · have ht : t.Ready := ⟨hR.running h ▸ hs.1, hR.pc h ▸ hs.2.1, hR.delay h ▸ hs.2.2⟩
    rw [step_fetches hs, step_fetches ht, ← State.fetch_congr (hR.memRead h) (hR.pc h)]
    cases s.fetch with
    | error e =>
      obtain ⟨k, o, he⟩ := fetchTrap_raises e
      exact ⟨_, _, he s, he t, hR.raise h k o⟩
    | ok p => exact hR.exec h p.1

theorem stepped (h : R s t) : R s.stepped t.stepped := by
  obtain ⟨u, v, hs, ht, huv⟩ := hR.step h
  rwa [stepped_eq_of_step hs, stepped_eq_of_step ht]

/-- Related states stay related over any number of steps. -/
theorem runSteps (h : R s t) (n : Nat) : R (s.runSteps n) (t.runSteps n) := by
  induction n generalizing s t with
  | zero => exact h
  | succ n ih => exact ih (hR.stepped h)

end Simulation

end Sys2Proof.Machine
end

section
/-! SUPPORT. What each instruction leaves unchanged, one lemma per part of the state. -/

namespace Sys2Proof.Machine

open Sys2Proof.Claims

/-! ### The operands by position -/

theorem operandsR_ok {ops : List Byte} {r : Reg} (h : operandsR ops = .ok r) :
    ops.head?.map BitVec.toNat = some r.val := by
  rcases operandsR_cases ops with ⟨-, e⟩ | ⟨_, _, -, -, e⟩ | ⟨_, _, _, rfl, e⟩ <;> rw [e] at h <;> cases h
  rfl

theorem operandsRI_ok {ops : List Byte} {r : Reg} {v : Byte} (h : operandsRI ops = .ok (r, v)) :
    ops.head?.map BitVec.toNat = some r.val ∧ ops[1]? = some v := by
  rcases operandsRI_cases ops with ⟨-, e⟩ | ⟨_, _, _, -, -, e⟩ | ⟨_, _, _, _, rfl, e⟩ <;> rw [e] at h <;> cases h
  exact ⟨rfl, rfl⟩

theorem operandsRR_ok {ops : List Byte} {r q : Reg} (h : operandsRR ops = .ok (r, q)) :
    ops.head?.map BitVec.toNat = some r.val := by
  rcases operandsRR_cases ops with ⟨-, e⟩ | ⟨_, _, _, -, -, e⟩ | ⟨_, _, _, _, _, rfl, e⟩ <;> rw [e] at h <;> cases h
  rfl

/-- A jump target is a byte (30_encoding.md R76). -/
theorem operandsA_ok {ops : List Byte} {target : Nat} (h : operandsA ops = .ok target) : target ≤ 255 := by
  rcases operandsA_cases ops with ⟨-, e⟩ | ⟨addr, _, -, e⟩ <;> rw [e] at h <;> cases h
  exact Nat.le_of_lt_succ addr.isLt

theorem pinOperand_ok {pin : Byte} {p : Pin} (h : pinOperand pin = some p) : pin.toNat = p.val := by
  by_cases hp : pin.toNat < Config.gpioPins
  · rw [pinOperand_some hp] at h
    cases h
    rfl
  · rw [pinOperand_none (by omega)] at h
    cases h

/-! ### Registers and pins -/

theorem State.setReg_regs_ne (s : State) {r q : Reg} (v : Byte) (h : r ≠ q) : (s.setReg r v).regs[q] = s.regs[q] :=
  Vector.getElem_set_ne r.isLt q.isLt fun hv => h (Fin.ext hv)

theorem State.setPin_gpio_ne (s : State) {p q : Pin} (b : Bool) (h : p ≠ q) : (s.setPin p b).gpio[q] = s.gpio[q] :=
  Vector.getElem_set_ne p.isLt q.isLt fun hv => h (Fin.ext hv)

/-- The instructions that write a register. -/
def writesRegister : Instr → Bool
  | .loadImm _ => true
  | .loadGpio _ => true
  | .add _ => true
  | .sub _ => true
  | .readAdc _ => true
  | _ => false

variable {i : Instr} {s t : State}

/-- Of the registers an instruction changes only the one its first operand names. -/
theorem exec_regs_ne (h : exec i s = .next t) {q : Reg} (hq : i.operands.head?.map BitVec.toNat ≠ some q.val) :
    t.regs[q] = s.regs[q] := by
  rcases exec_cases h with ⟨k, -, rfl⟩ | ⟨-, -, f, hf, rfl⟩
  · rfl
  · have hne {r : Reg} (hr : i.operands.head?.map BitVec.toNat = some r.val) : r ≠ q := fun hrq => hq (hrq ▸ hr)
    cases hf with
    | loadImm e => exact State.setReg_regs_ne s _ (hne (operandsRI_ok e).1)
    | loadGpio e => exact State.setReg_regs_ne s _ (hne (operandsRI_ok e).1)
    | add e | sub e => exact State.setReg_regs_ne s _ (hne (operandsRR_ok e))
    | readAdc e => exact State.setReg_regs_ne s.drawAdc _ (hne (operandsR_ok e))
    | _ => rfl

theorem exec_regs (h : exec i s = .next t) (hi : writesRegister i = false) : t.regs = s.regs := by
  rcases exec_cases h with ⟨k, -, rfl⟩ | ⟨-, -, f, hf, rfl⟩
  · rfl
  · cases hf with
    | loadImm | loadGpio | add | sub | readAdc => cases hi
    | _ => rfl

/-- Only STORE_GPIO changes a pin, and only the pin its second operand names (41_register_gpio.md R124). -/
theorem exec_gpio_ne (h : exec i s = .next t) {p : Pin}
    (hp : ∀ ops, i = .storeGpio ops → ops[1]?.map BitVec.toNat ≠ some p.val) : t.gpio[p] = s.gpio[p] := by
  rcases exec_cases h with ⟨k, -, rfl⟩ | ⟨-, -, f, hf, rfl⟩
  · rfl
  · cases hf with
    | storeGpio e hpin =>
      refine State.setPin_gpio_ne s _ fun hpq => hp _ rfl ?_
      rw [(operandsRI_ok e).2, ← hpq, ← pinOperand_ok hpin]
      rfl
    | _ => rfl

theorem exec_gpio (h : exec i s = .next t) (hi : ∀ ops, i ≠ .storeGpio ops) : t.gpio = s.gpio := by
  rcases exec_cases h with ⟨k, -, rfl⟩ | ⟨-, -, f, hf, rfl⟩
  · rfl
  · cases hf with
    | storeGpio => exact absurd rfl (hi _)
    | _ => rfl

/-! ### Flag, delay, ADC -/

/-- COMPARE never leaves the flag UNSET (10_state.md R23). -/
theorem compareFlag_ne_unset (a b : Byte) : compareFlag a b ≠ .unset := by
  rw [compareFlag_eq]
  split_ifs <;> exact CompareFlag.noConfusion

theorem exec_flag (h : exec i s = .next t) (hi : ∀ ops, i ≠ .compare ops) : t.flag = s.flag := by
  rcases exec_cases h with ⟨k, -, rfl⟩ | ⟨-, -, f, hf, rfl⟩
  · rfl
  · cases hf with
    | compare => exact absurd rfl (hi _)
    | _ => rfl

theorem exec_delay (h : exec i s = .next t) (hi : ∀ ops, i ≠ .delay ops) : t.delay = s.delay := by
  rcases exec_cases h with ⟨k, -, rfl⟩ | ⟨-, -, f, hf, rfl⟩
  · rfl
  · cases hf with
    | delay => exact absurd rfl (hi _)
    | _ => rfl

theorem exec_adcDraws (h : exec i s = .next t) (hi : ∀ ops, i ≠ .readAdc ops) : t.adcDraws = s.adcDraws := by
  rcases exec_cases h with ⟨k, -, rfl⟩ | ⟨-, -, f, hf, rfl⟩
  · rfl
  · cases hf with
    | readAdc => exact absurd rfl (hi _)
    | _ => rfl

/-! ### Outputs -/

/-- The outputs and the cursor, which only the emitting instructions change. -/
abbrev SameOutputs (s t : State) : Prop :=
  t.serialBuf = s.serialBuf ∧ t.spiBuf = s.spiBuf ∧ t.trace = s.trace ∧ t.cursor = s.cursor

theorem sameOutputs_refl (s : State) : SameOutputs s s := ⟨rfl, rfl, rfl, rfl⟩

theorem exec_sameOutputs (h : exec i s = .next t) (hi : emits i = false) : SameOutputs s t := by
  rcases exec_cases h with ⟨k, -, rfl⟩ | ⟨-, -, f, hf, rfl⟩
  · exact sameOutputs_refl s
  · cases hf with
    | serialWrite | spiWrite | screenPrint | screenClear | drawPixel | moveX | moveY => cases hi
    | _ => exact sameOutputs_refl s

/-- An emitting instruction that completes puts one event at the trace's end (44_peripheral_output.md R178). -/
theorem Completes.trace_of_emits {f : State → State} (hf : Completes i f) (hi : emits i = true) (s : State) :
    ∃ e, (f s).trace = s.trace ++ [e] := by
  cases hf with
  | serialWrite | spiWrite | screenPrint | screenClear | drawPixel | moveX | moveY => exact ⟨_, rfl⟩
  | _ => cases hi

/-! ### What no instruction changes -/

theorem sameMemory_refl (s : State) : SameMemory s s := ⟨fun _ => rfl, fun _ => rfl, rfl, rfl, rfl⟩

theorem Completes.sameMemory {f : State → State} (hf : Completes i f) (s : State) : SameMemory s (f s) := by
  cases hf <;> exact sameMemory_refl s

/-- A completed instruction leaves the fault state alone. -/
theorem Completes.control {f : State → State} (hf : Completes i f) (s : State) :
    (f s).running = s.running ∧ (f s).fault = s.fault := by
  cases hf <;> exact ⟨rfl, rfl⟩

/-- A completed instruction goes past its record, or to a target that is a byte (40_step_cycle.md R105). -/
theorem Completes.pc {f : State → State} (hf : Completes i f) (s : State) :
    (f s).pc = s.pc + 2 + i.operands.length ∨ (f s).pc ≤ 255 := by
  have branch (cond : CompareFlag → Bool) {ops : List Byte} {target : Nat} (h : operandsA ops = .ok target) :
      (s.branch cond target ops.length).pc = s.pc + 2 + ops.length ∨ (s.branch cond target ops.length).pc ≤ 255 := by
    unfold State.branch
    split
    · exact .inr (operandsA_ok h)
    · exact .inl rfl
  cases hf with
  | jump h => exact .inr (operandsA_ok h)
  | jumpEq h | jumpNeq h | jumpGt h | jumpLt h => exact branch _ h
  | _ => exact .inl rfl

theorem exec_sameMemory (h : exec i s = .next t) : SameMemory s t := by
  rcases exec_cases h with ⟨k, -, rfl⟩ | ⟨-, -, f, hf, rfl⟩
  · exact sameMemory_refl s
  · exact hf.sameMemory s

theorem exec_sameControl (h : exec i s = .next t) : SameControl i s t := by
  rcases exec_cases h with ⟨k, -, rfl⟩ | ⟨-, -, f, hf, rfl⟩
  · exact .inr ⟨k, rfl⟩
  · exact .inl (hf.control s)

theorem exec_gpioMode (h : exec i s = .next t) : t.gpioMode = s.gpioMode := by
  rcases exec_cases h with ⟨k, -, rfl⟩ | ⟨-, -, f, hf, rfl⟩
  · rfl
  · cases hf <;> rfl

end Sys2Proof.Machine
end

section
/-! SUPPORT. The proofs of the statements about the state (10_state.md). -/

namespace Sys2Proof.Machine

open Sys2Proof.Claims

/-! ### Two runs that agree -/

/-- What an instruction does to the core fields is decided by the core fields. -/
theorem sameCore_simulation : Simulation SameCore where
  pc := fun ⟨_, _, hpc, _⟩ => hpc
  running := fun ⟨_, _, _, hrunning, _⟩ => hrunning
  delay := fun ⟨_, _, _, _, _, hdelay, _⟩ => hdelay
  flag := fun ⟨_, hflag, _⟩ => hflag
  memRead := fun ⟨_, _, _, _, _, _, _, hflash, hlen, _⟩ => State.memRead_congr hflash hlen
  halt {s t} h := by simp [SameCore, h]
  stall {s t} h := by simp [SameCore, h]
  raise {s t} h k o := by simp [SameCore, h]
  completes {s t} h i f hf := by
    obtain ⟨hregs, hflag, hpc, hrun, hfault, hdelay, hgpio, hflash, hlen, hadc⟩ := h
    have hreg (q : Reg) : s.reg q = t.reg q := State.reg_congr hregs q
    have hpin (p : Pin) : s.pin p = t.pin p := State.pin_congr hgpio p
    cases hf <;> simp [SameCore, State.branch, State.adcAnswer, *]

/-- Settles O46: agreement on the core is a simulation. -/
theorem computationIgnoresOutputs : Obligations.ComputationIgnoresOutputs :=
  fun n _ _ h => sameCore_simulation.runSteps h n

/-- `s` with other pin modes and other RAM. -/
def State.withModesRam (s : State) (modes : Vector PinMode Config.gpioPins) (ram : Memory) : State :=
  { s with gpioMode := modes, ram := ram }

/-- Every effect of a step commutes with replacing the pin modes and RAM. -/
theorem withModesRam_simulation (modes : Vector PinMode Config.gpioPins) (ram : Memory) :
    Simulation fun s t => t = s.withModesRam modes ram where
  pc h := h ▸ rfl
  running h := h ▸ rfl
  delay h := h ▸ rfl
  flag h := h ▸ rfl
  memRead h _ := h ▸ rfl
  halt h := h ▸ rfl
  stall h := h ▸ rfl
  raise h _ _ := h ▸ rfl
  completes {s t} h i f hf := by
    subst h
    cases hf <;> rfl

/-- Settles O47: replacing pin modes and RAM is a simulation. -/
theorem pinModesAndRamUnobservable : Obligations.PinModesAndRamUnobservable :=
  fun n _ modes ram => (withModesRam_simulation modes ram).runSteps rfl n

/-! ### The invariant of a launch -/

/-- The parts of the invariant about memory depend on memory alone. -/
theorem State.ImageExact.of_sameMemory {s t : State} (h : s.ImageExact) (hm : SameMemory s t) : t.ImageExact := by
  obtain ⟨-, -, hflash, hlen, -⟩ := hm
  exact ⟨hflash ▸ h.canonical, hlen ▸ h.fits, hflash ▸ hlen ▸ h.exact⟩

theorem State.RamInRange.of_sameMemory {s t : State} (h : s.RamInRange) (hm : SameMemory s t) : t.RamInRange := by
  obtain ⟨-, -, -, -, hram⟩ := hm
  exact ⟨hram ▸ h.canonical, hram ▸ h.fits⟩

/-- A state without a fault record has nothing to show of it. -/
theorem State.FaultStops.of_fault_none {s : State} (h : s.fault = none) : s.FaultStops where
  stopped hne := absurd h hne
  atOpcode r hr := by simp [h] at hr
  opcode r hr := by simp [h] at hr
  byte r hr := by simp [h] at hr

/-- Where a fault has stopped the machine, a running one has none. -/
theorem State.FaultStops.fault_none {s : State} (h : s.FaultStops) (hrun : s.running = true) : s.fault = none := by
  by_contra hne
  simp [h.stopped hne] at hrun

/-- A raised fault stops the machine at the opcode byte it records (60_exceptions.md R240). -/
theorem State.raise_faultStops {s : State} {k : FaultKind} {o : Option Byte} (hbyte : o = s.memRead s.pc)
    (hfits : FaultRecord.OpcodeFits { kind := k, opcode := o, pc := s.pc }) : (s.raise k o).FaultStops where
  stopped _ := rfl
  atOpcode r hr := by cases hr; rfl
  opcode r hr := by cases hr; exact hfits
  byte r hr := by cases hr; exact hbyte

/-- The halt clears `running`, which the fault record allows. -/
theorem State.FaultStops.halt {s : State} (h : s.FaultStops) : s.halt.FaultStops :=
  { h with stopped := fun _ => rfl }

/-- Each byte goes to a buffer and to the trace together (44_peripheral_output.md R180, R183). -/
theorem Completes.buffersMatchTrace {i : Instr} {f : State → State} (hf : Completes i f) {s : State}
    (h : s.BuffersMatchTrace) : (f s).BuffersMatchTrace := by
  obtain ⟨hserial, hspi⟩ := h
  cases hf with
  | serialWrite | spiWrite | screenPrint | screenClear | drawPixel | moveX | moveY =>
    constructor <;> simp [hserial, hspi, Event.serial, Event.spi]
  | _ => exact ⟨hserial, hspi⟩

/-- A completed instruction's record lies in the image, so its end is within or just past it. -/
theorem Completes.pcBounded {i : Instr} {f : State → State} (hf : Completes i f) {s : State}
    (hbytes : s.BytesAtPc (encode i)) : (f s).PcBounded := by
  obtain ⟨-, -, -, hlen, -⟩ := hf.sameMemory s
  have hrecord := hbytes.le_imageLen
  show (f s).pc ≤ max 255 (f s).imageLen
  rw [hlen]
  rcases hf.pc s with h | h <;> omega

theorem State.BuffersMatchTrace.of_sameOutputs {s t : State} (h : s.BuffersMatchTrace) (ho : SameOutputs s t) :
    t.BuffersMatchTrace := by
  obtain ⟨hserial, hspi, htrace, -⟩ := ho
  exact ⟨by rw [hserial, htrace, h.serial], by rw [hspi, htrace, h.spi]⟩

/-- A state with the memory of a consistent one is consistent if its other parts are. -/
theorem State.Consistent.of_sameMemory {s t : State} (h : s.Consistent) (hm : SameMemory s t) (hfault : t.FaultStops)
    (hbuffers : t.BuffersMatchTrace) (hpc : t.PcBounded) : t.Consistent :=
  ⟨h.image.of_sameMemory hm, h.ram.of_sameMemory hm, hfault, hbuffers, hpc⟩

/-- Settles O48, by the ways a step ends. -/
theorem stepKeepsConsistent : Obligations.StepKeepsConsistent := by
  intro s t hs h
  cases step_cases h with
  | halts =>
    exact hs.of_sameMemory (sameMemory_refl s) hs.fault.halt
      (hs.buffers.of_sameOutputs (sameOutputs_refl s)) hs.pc
  | stalls hrun hstall =>
    obtain ⟨hrunning, -⟩ := s.mustHalt_eq_false_iff.mp hrun
    exact hs.of_sameMemory (sameMemory_refl s) (.of_fault_none (hs.fault.fault_none hrunning))
      (hs.buffers.of_sameOutputs (sameOutputs_refl s)) hs.pc
  | faults hready hbyte hfits =>
    exact hs.of_sameMemory (sameMemory_refl s) (State.raise_faultStops hbyte hfits)
      (hs.buffers.of_sameOutputs (sameOutputs_refl s)) hs.pc
  | completes hready hbytes hgood hflag hf =>
    have hnone := (hf.control s).2.trans (hs.fault.fault_none hready.1)
    exact hs.of_sameMemory (hf.sameMemory s) (.of_fault_none hnone) (hf.buffersMatchTrace hs.buffers)
      (hf.pcBounded hbytes)

/-! ### Frames -/

/-- Settles O38, by the frame lemma of each part of the state. -/
theorem registerWritersFrame : Obligations.RegisterWritersFrame := by
  intro ops s t i hi h
  obtain ⟨hops, hemits, hstore, hcompare, hdelay⟩ : i.operands = ops ∧ emits i = false ∧
      (∀ ops', i ≠ .storeGpio ops') ∧ (∀ ops', i ≠ .compare ops') ∧ ∀ ops', i ≠ .delay ops' := by
    rcases hi with rfl | rfl | rfl | rfl | rfl <;> exact ⟨rfl, rfl, nofun, nofun, nofun⟩
  have hadc : i ≠ .readAdc ops → ∀ ops', i ≠ .readAdc ops' := by
    rintro hne ops' rfl
    exact hne (congrArg Instr.readAdc hops)
  obtain ⟨hserial, hspi, htrace, hcursor⟩ := exec_sameOutputs h hemits
  exact ⟨fun q hq => exec_regs_ne h (hops ▸ hq), exec_flag h hcompare, exec_delay h hdelay, exec_gpio h hstore,
    exec_gpioMode h, hserial, hspi, htrace, hcursor, fun hne => exec_adcDraws h (hadc hne), exec_sameMemory h,
    exec_sameControl h⟩

/-- Settles O41, by the frame lemma of each part of the state. -/
theorem storeCompareDelayFrame : Obligations.StoreCompareDelayFrame := by
  intro ops s t i hi h
  obtain ⟨hops, hwrites, hemits, hadc⟩ : i.operands = ops ∧ writesRegister i = false ∧ emits i = false ∧
      ∀ ops', i ≠ .readAdc ops' := by
    rcases hi with rfl | rfl | rfl <;> exact ⟨rfl, rfl, rfl, nofun⟩
  have hstore {ops'} (he : i = .storeGpio ops') : ops' = ops := by simpa [he, Instr.operands] using hops
  have hcompare {ops'} (he : i = .compare ops') : ops' = ops := by simpa [he, Instr.operands] using hops
  have hdelay {ops'} (he : i = .delay ops') : ops' = ops := by simpa [he, Instr.operands] using hops
  obtain ⟨hserial, hspi, htrace, hcursor⟩ := exec_sameOutputs h hemits
  exact ⟨exec_regs h hwrites, exec_gpioMode h, hserial, hspi, htrace, hcursor, exec_adcDraws h hadc,
    exec_sameMemory h, exec_sameControl h,
    fun hne => exec_gpio h fun ops' he => hne (hstore he ▸ he),
    fun p hp => exec_gpio_ne h fun ops' he => (hstore he).symm ▸ hp,
    fun hne => exec_flag h fun ops' he => hne (hcompare he ▸ he),
    fun hne => exec_delay h fun ops' he => hne (hdelay he ▸ he)⟩

/-! ### The flag -/

/-- A completed instruction that changes the flag is a COMPARE, and leaves the flag set. -/
theorem Completes.flag_ne {i : Instr} {f : State → State} (hf : Completes i f) {s : State} (h : (f s).flag ≠ s.flag) :
    (f s).flag ≠ .unset ∧ ∃ ops, i = .compare ops := by
  cases hf with
  | compare => exact ⟨compareFlag_ne_unset _ _, _, rfl⟩
  | _ => exact absurd rfl h

/-- An instruction that is no conditional jump does the same to all else whatever the flag is. -/
theorem Completes.setFlag_comm {i : Instr} {f : State → State} (hf : Completes i f) (hi : conditional i = false) (s : State)
    (fl : CompareFlag) : (f (s.setFlag fl)).setFlag (f s).flag = f s := by
  cases hf with
  | jumpEq | jumpNeq | jumpGt | jumpLt => cases hi
  | _ => rfl

/-- Without a condition to ask, what an instruction raises does not depend on the flag. -/
theorem Faults.of_not_conditional {i : Instr} {fl fl' : CompareFlag} {k : FaultKind} (h : Faults i fl k)
    (hi : conditional i = false) : Faults i fl' k := by
  cases h with
  | operands h => exact .operands h
  | flagUnset _ hcond _ => simp [hi] at hcond

/-- Settles O42: by the ways a step ends, and by the effects of the instructions without a condition. -/
theorem flagWrittenOnlyByCompare : Obligations.FlagWrittenOnlyByCompare := by
  constructor
  · intro s t h hne
    cases step_cases h with
    | halts | stalls | faults => exact absurd rfl hne
    | completes hready hbytes hgood hflag hf =>
      obtain ⟨hset, ops, rfl⟩ := hf.flag_ne hne
      exact ⟨hset, hready, ops, hbytes⟩
  · intro i s t fl hi h
    rcases exec_cases h with ⟨k, hk, rfl⟩ | ⟨-, -, f, hf, rfl⟩
    · exact ⟨_, Faults.exec_eq (s := s.setFlag fl) (hk.of_not_conditional hi), rfl⟩
    · exact ⟨_, hf.exec_eq (s := s.setFlag fl) (by simp [hi]), hf.setFlag_comm hi s fl⟩

/-! ### The outputs -/

/-- No emitting instruction asks a condition of the flag. -/
theorem not_conditional_of_emits {i : Instr} (h : emits i = true) : conditional i = false := by
  cases i with
  | jumpEq | jumpNeq | jumpGt | jumpLt => cases h
  | _ => rfl

/-- Settles O44: good operands complete an emitting instruction, and only they complete any. -/
theorem emittersAppendOneEvent : Obligations.EmittersAppendOneEvent := by
  intro i s t h
  constructor
  · intro hi he hv
    obtain ⟨f, hf⟩ := OperandsGood.completes ⟨he, hv⟩
    have ht : f s = t := by simpa [hf.exec_eq (s := s) (by simp [not_conditional_of_emits hi])] using h
    exact ht ▸ hf.trace_of_emits hi s
  · rintro (hi | hbad)
    · obtain ⟨-, -, htrace, -⟩ := exec_sameOutputs h hi
      exact htrace
    · rcases exec_cases h with ⟨k, -, rfl⟩ | ⟨⟨he, hv⟩, -⟩
      · rfl
      · exact (hbad.elim (· he) (· hv)).elim

/-- The outputs of `t` are those of `s` with more at the end. -/
abbrev OutputsGrow (s t : State) : Prop := s.serialBuf <+: t.serialBuf ∧ s.spiBuf <+: t.spiBuf ∧ s.trace <+: t.trace

theorem OutputsGrow.refl (s : State) : OutputsGrow s s := ⟨List.prefix_rfl, List.prefix_rfl, List.prefix_rfl⟩

theorem OutputsGrow.trans {s t u : State} (h : OutputsGrow s t) (h' : OutputsGrow t u) : OutputsGrow s u :=
  ⟨h.1.trans h'.1, h.2.1.trans h'.2.1, h.2.2.trans h'.2.2⟩

/-- A completed instruction only appends to the outputs. -/
theorem Completes.outputsGrow {i : Instr} {f : State → State} (hf : Completes i f) (s : State) : OutputsGrow s (f s) := by
  cases hf with
  | serialWrite | spiWrite | screenPrint | screenClear | drawPixel | moveX | moveY => simp [OutputsGrow]
  | _ => exact .refl s

theorem StepTo.outputsGrow {s t : State} (h : StepTo s t) : OutputsGrow s t := by
  cases h with
  | halts | stalls | faults => exact .refl s
  | completes _ _ _ _ hf => exact hf.outputsGrow s

/-- Settles O45, by induction on the number of steps. -/
theorem outputsOnlyGrow : Obligations.OutputsOnlyGrow := by
  intro n
  induction n with
  | zero => exact OutputsGrow.refl
  | succ n ih => exact fun s => (stepTo_stepped s).outputsGrow.trans (ih s.stepped)

end Sys2Proof.Machine
end

section
/-! SUPPORT. The proofs of the statements about memory (20_memory.md): the frames of the jumps and of the output
instructions, and what writes memory. -/

namespace Sys2Proof.Machine

open Sys2Proof.Claims

variable {i : Instr} {s t : State} {ops : List Byte}

/-! ### Buffers and cursor -/

theorem exec_serialBuf (h : exec i s = .next t) (hi : ∀ ops, i ≠ .serialWrite ops) : t.serialBuf = s.serialBuf := by
  rcases exec_cases h with ⟨k, -, rfl⟩ | ⟨-, -, f, hf, rfl⟩
  · rfl
  · cases hf with
    | serialWrite => exact absurd rfl (hi _)
    | _ => rfl

theorem exec_spiBuf (h : exec i s = .next t) (hi : ∀ ops, i ≠ .spiWrite ops) : t.spiBuf = s.spiBuf := by
  rcases exec_cases h with ⟨k, -, rfl⟩ | ⟨-, -, f, hf, rfl⟩
  · rfl
  · cases hf with
    | spiWrite => exact absurd rfl (hi _)
    | _ => rfl

/-- The instructions that move the cursor. -/
def movesCursor : Instr → Bool
  | .screenPrint _ => true
  | .screenClear _ => true
  | .moveX _ => true
  | .moveY _ => true
  | _ => false

theorem exec_cursor (h : exec i s = .next t) (hi : movesCursor i = false) : t.cursor = s.cursor := by
  rcases exec_cases h with ⟨k, -, rfl⟩ | ⟨-, -, f, hf, rfl⟩
  · rfl
  · cases hf with
    | screenPrint | screenClear | moveX | moveY => cases hi
    | _ => rfl

/-- MOVE_X keeps the other coordinate (44_peripheral_output.md R195). -/
theorem exec_moveX_cursor_y (h : exec (.moveX ops) s = .next t) : t.cursor.y = s.cursor.y := by
  rcases exec_cases h with ⟨k, -, rfl⟩ | ⟨-, -, f, hf, rfl⟩
  · rfl
  · cases hf
    rfl

/-- MOVE_Y keeps the other coordinate (44_peripheral_output.md R198). -/
theorem exec_moveY_cursor_x (h : exec (.moveY ops) s = .next t) : t.cursor.x = s.cursor.x := by
  rcases exec_cases h with ⟨k, -, rfl⟩ | ⟨-, -, f, hf, rfl⟩
  · rfl
  · cases hf
    rfl

/-! ### Frames -/

/-- Settles O39, by the frame lemma of each part of the state. -/
theorem jumpsFrame : Obligations.JumpsFrame := by
  intro ops s t i hi h
  obtain ⟨hwrites, hemits, hstore, hcompare, hdelay, hadc⟩ : writesRegister i = false ∧ emits i = false ∧
      (∀ ops', i ≠ .storeGpio ops') ∧ (∀ ops', i ≠ .compare ops') ∧ (∀ ops', i ≠ .delay ops') ∧
      ∀ ops', i ≠ .readAdc ops' := by
    rcases hi with rfl | rfl | rfl | rfl | rfl <;> exact ⟨rfl, rfl, nofun, nofun, nofun, nofun⟩
  obtain ⟨hserial, hspi, htrace, hcursor⟩ := exec_sameOutputs h hemits
  exact ⟨exec_regs h hwrites, exec_flag h hcompare, exec_delay h hdelay, exec_gpio h hstore, exec_gpioMode h, hserial,
    hspi, htrace, hcursor, exec_adcDraws h hadc, exec_sameMemory h, exec_sameControl h⟩

/-- Settles O40, by the frame lemma of each part of the state. -/
theorem outputInstructionsFrame : Obligations.OutputInstructionsFrame := by
  intro ops s t i hi h
  obtain ⟨hops, hwrites, hstore, hcompare, hdelay, hadc⟩ : i.operands = ops ∧ writesRegister i = false ∧
      (∀ ops', i ≠ .storeGpio ops') ∧ (∀ ops', i ≠ .compare ops') ∧ (∀ ops', i ≠ .delay ops') ∧
      ∀ ops', i ≠ .readAdc ops' := by
    rcases hi with rfl | rfl | rfl | rfl | rfl | rfl | rfl <;> exact ⟨rfl, rfl, nofun, nofun, nofun, nofun⟩
  have hserial {ops'} (he : i = .serialWrite ops') : ops' = ops := by simpa [he, Instr.operands] using hops
  have hspi {ops'} (he : i = .spiWrite ops') : ops' = ops := by simpa [he, Instr.operands] using hops
  have hcursor (hc : i = .serialWrite ops ∨ i = .spiWrite ops ∨ i = .drawPixel ops) : movesCursor i = false := by
    rcases hc with rfl | rfl | rfl <;> rfl
  exact ⟨exec_regs h hwrites, exec_flag h hcompare, exec_delay h hdelay, exec_gpio h hstore, exec_gpioMode h,
    exec_adcDraws h hadc, exec_sameMemory h, exec_sameControl h,
    fun hne => exec_serialBuf h fun ops' he => hne (hserial he ▸ he),
    fun hne => exec_spiBuf h fun ops' he => hne (hspi he ▸ he),
    fun hc => exec_cursor h (hcursor hc),
    fun he => exec_moveX_cursor_y (he ▸ h), fun he => exec_moveY_cursor_x (he ▸ h)⟩

/-! ### What writes memory -/

theorem sameMemory_trans {u : State} (h : SameMemory s t) (h' : SameMemory t u) : SameMemory s u := by
  obtain ⟨hmem, hread, hflash, hlen, hram⟩ := h
  obtain ⟨hmem', hread', hflash', hlen', hram'⟩ := h'
  exact ⟨fun a => (hmem' a).trans (hmem a), fun a => (hread' a).trans (hread a), hflash'.trans hflash, hlen'.trans hlen,
    hram'.trans hram⟩

theorem StepTo.sameMemory (h : StepTo s t) : SameMemory s t := by
  cases h with
  | halts | stalls | faults => exact sameMemory_refl s
  | completes _ _ _ _ hf => exact hf.sameMemory s

/-- What every step keeps, any number of steps keeps. -/
theorem runSteps_keeps {P : State → Prop} (hstep : ∀ {s t}, P s → StepTo s t → P t) (n : Nat) {s : State} (h : P s) :
    P (s.runSteps n) := by
  induction n generalizing s with
  | zero => exact h
  | succ n ih => exact ih (hstep h (stepTo_stepped s))

theorem runSteps_sameMemory (n : Nat) (s : State) : SameMemory s (s.runSteps n) :=
  runSteps_keeps (fun h hstep => sameMemory_trans h hstep.sameMemory) n (sameMemory_refl s)

/-- A load of an image that does not fit changes nothing (70_reset_and_hazards.md R282). -/
theorem State.load_tooLong (s : State) {image : List Byte} (g : Vector Bool Config.gpioPins)
    (h : Config.flashCapacity < image.length) : s.load image g = (s, .capacityExceeded) :=
  if_neg (Nat.not_le.mpr h)

/-- A load, whether it fits or not, leaves RAM as it was (70_reset_and_hazards.md R281). -/
theorem State.load_ram (s : State) (image : List Byte) (g : Vector Bool Config.gpioPins) :
    (s.load image g).1.ram = s.ram := by
  unfold State.load
  split <;> rfl

theorem hostAct_sameMemory {a : HostAction} (s : State)
    (ha : ∀ image g, a = .load image g → Config.flashCapacity < image.length) : SameMemory s (hostAct a s).1 := by
  cases a with
  | load image g =>
    simp only [hostAct, s.load_tooLong g (ha image g rfl)]
    exact sameMemory_refl s
  | step => exact (stepTo_stepped s).sameMemory
  | run n => exact runSteps_sameMemory n s
  | stop | compile | snapshot => exact sameMemory_refl s

theorem hostAct_ram (a : HostAction) (s : State) : (hostAct a s).1.ram = s.ram := by
  have keeps (ha : ∀ image g, a ≠ .load image g) : (hostAct a s).1.ram = s.ram := by
    obtain ⟨-, -, -, -, hram⟩ := hostAct_sameMemory s fun image g he => absurd he (ha image g)
    exact hram
  cases a with
  | load image g => exact s.load_ram image g
  | _ => exact keeps nofun

/-- Settles O43: a step's ways to end keep memory, and so do the host's actions but a load that fits. -/
theorem onlyLoadWritesMemory : Obligations.OnlyLoadWritesMemory :=
  ⟨fun _ _ h => (step_cases h).sameMemory, hostAct_ram, fun _ s ha => hostAct_sameMemory s ha⟩

end Sys2Proof.Machine
end

section
/-! SUPPORT. The proofs of the statements about records (30_encoding.md): decoding and encoding, the unassigned opcodes, the
outcomes of a fetch, and operands past the required ones. -/

namespace Sys2Proof

/-! ### Decoding and encoding -/

/-- The length byte of a record counts its operands, so decoding the record takes exactly them. -/
theorem decode_encode_append {i : Instr} (h : i.LenFits) (after : List Byte) :
    decode (encode i ++ after) = .ok (i, after) := by
  obtain ⟨make, hs, hi⟩ := selectOpcode_opcode i
  have hops : takeExact (BitVec.ofNat 8 i.operands.length).toNat (i.operands ++ after) = some (i.operands, after) :=
    takeExact_eq_some.mpr ⟨rfl, (lengthByte_toNat h).symm⟩
  simp only [encode, List.cons_append, decode, hs, hops, hi]

/-- Settles O1. -/
theorem decodeOfEncode : Obligations.DecodeOfEncode := fun _ after h => decode_encode_append h after

/-- The record of a selected instruction whose operands a length byte counts. -/
theorem encode_of_selectOpcode {opc len : Byte} {make : List Byte → Instr} {ops : List Byte}
    (hs : selectOpcode opc = some make) (hlen : ops.length = len.toNat) :
    (make ops).LenFits ∧ encode (make ops) = opc :: len :: ops := by
  obtain ⟨hops, hopc⟩ := selectOpcode_spec hs ops
  have hlt := len.isLt
  constructor
  · show (make ops).operands.length ≤ 255
    rw [hops]
    omega
  · simp [encode, hops, hopc, hlen]

/-- Settles O2: of the answers of `decode`, only the last is an instruction. -/
theorem encodeOfDecode : Obligations.EncodeOfDecode := by
  intro bs after i h
  rcases decode_cases bs with ⟨-, e⟩ | ⟨_, _, -, -, e⟩ | ⟨_, _, _, -, -, -, e⟩ |
    ⟨opc, len, ops, after', make, hbs, hs, hlen, e⟩ <;> rw [e] at h <;> cases h
  obtain ⟨hfits, henc⟩ := encode_of_selectOpcode hs hlen
  exact ⟨hfits, by rw [hbs, henc]; rfl⟩

/-- Settles O3: each list of bytes is the record that its instruction encodes to. -/
theorem specWordsDecode : Obligations.SpecWordsDecode :=
  ⟨decode_encode_append (i := .loadImm [0x03#8, 0x2A#8]) (by decide) [],
    decode_encode_append (i := .jumpLt [0x17#8]) (by decide) [],
    decode_encode_append (i := .sub [0x06#8, 0x05#8]) (by decide) [],
    decode_encode_append (i := .screenClear []) (by decide) [],
    decode_encode_append (i := .delay [0x03#8, 0x00#8]) (by decide) [],
    decode_encode_append (i := .loadImm [0x00#8, 0x07#8, 0xFF#8]) (by decide) []⟩

/-! ### The unassigned opcodes -/

/-- The ranges between and past the opcode map's rows (30_encoding.md R81). -/
theorem selectOpcode_eq_none_iff (b : Byte) :
    selectOpcode b = none ↔ b.toNat = 0 ∨ (0x06 ≤ b.toNat ∧ b.toNat ≤ 0x10) ∨ 0x20 ≤ b.toNat := by
  unfold selectOpcode
  split
  case h_21 =>
    simp only [imp_false, BitVec.toNat_eq, BitVec.reduceToNat, true_iff] at *
    omega
  all_goals simp

/-! ### The instruction with more operands -/

/-- `i` with operand bytes added after its own. -/
def Instr.lengthen (i : Instr) (extra : List Byte) : Instr :=
  ((selectOpcode i.opcode).map fun make => make (i.operands ++ extra)).getD i

variable (i : Instr) (extra : List Byte)

theorem Instr.lengthen_of_selectOpcode {opc : Byte} {make : List Byte → Instr} (hs : selectOpcode opc = some make)
    (ops : List Byte) : (make ops).lengthen extra = make (ops ++ extra) := by
  obtain ⟨hops, hopc⟩ := selectOpcode_spec hs ops
  simp [Instr.lengthen, hops, hopc, hs]

@[simp] theorem Instr.lengthen_operands : (i.lengthen extra).operands = i.operands ++ extra := by
  cases i <;> rfl

@[simp] theorem Instr.lengthen_opcode : (i.lengthen extra).opcode = i.opcode := by
  cases i <;> rfl

@[simp] theorem Instr.lengthen_format : (i.lengthen extra).format = i.format := by
  cases i <;> rfl

@[simp] theorem Claims.conditional_lengthen : Claims.conditional (i.lengthen extra) = Claims.conditional i := by
  cases i <;> rfl

/-- Register operands are required operands (30_encoding.md R73, R74). -/
theorem Format.registers_le_nreq (f : Format) : f.registers ≤ f.nreq := by
  cases f <;> decide

variable {i}

theorem Instr.Enough.lengthen (h : i.Enough) : (i.lengthen extra).Enough := by
  simp only [Instr.Enough, Instr.nreq, Instr.lengthen_format, Instr.lengthen_operands, List.length_append] at h ⊢
  omega

/-- Operands past the required ones are none of the register operands. -/
theorem Instr.Enough.registerOperands_lengthen (h : i.Enough) :
    (i.lengthen extra).registerOperands = i.registerOperands := by
  simp only [Instr.registerOperands, Instr.lengthen_format, Instr.lengthen_operands]
  exact List.take_append_of_le_length (i.format.registers_le_nreq.trans h)

end Sys2Proof

namespace Sys2Proof.Machine

open Sys2Proof.Claims

/-! ### Outcomes of a fetch -/

/-- An unassigned opcode faults on its byte alone, whatever stands after it (60_exceptions.md R241). -/
theorem step_unknownOpcode {s : State} {b : Byte} (hready : s.Ready) (hb : s.memRead s.pc = some b)
    (hs : selectOpcode b = none) : step s = .next (s.raise .unknownOpcode (some b)) := by
  have hfetch : s.fetch = .error (.unknownOpcode b) := by
    simp [State.fetch, longestRecord, State.readBytes_cons hb 256, decode, hs]
  rw [step_fetches hready, hfetch]
  rfl

/-- Settles O4. -/
theorem unassignedOpcodesFault : Obligations.UnassignedOpcodesFault :=
  ⟨selectOpcode_eq_none_iff, fun _ b hready hb hrange =>
    step_unknownOpcode hready hb ((selectOpcode_eq_none_iff b).mpr hrange)⟩

/-- Settles O9, by the answers of a fetch. -/
theorem stepIsTotal : Obligations.StepIsTotal := by
  refine ⟨fun s => ?_, fun s _ => ?_⟩
  · obtain ⟨t, ht, -⟩ := step_total s
    exact ⟨t, ht⟩
  · rcases s.fetch_cases with ⟨hm, -⟩ | ⟨opc, hm, hs, -⟩ | ⟨opc, make, hm, hs, hcut, -⟩ | ⟨i, after, hfits, hbytes, -⟩
    · exact .inl hm
    · exact .inr (.inl ⟨opc, hm, hs⟩)
    · exact .inr (.inr (.inl ⟨opc, make, hm, hs, hcut⟩))
    · exact .inr (.inr (.inr ⟨i, hfits, hbytes⟩))

/-! ### Operands past the required ones -/

variable {i : Instr} {ops : List Byte} (extra : List Byte)

theorem operandsR_append {r : Reg} (h : operandsR ops = .ok r) : operandsR (ops ++ extra) = .ok r := by
  match ops, h with
  | _ :: _, h => exact h

theorem operandsA_append {target : Nat} (h : operandsA ops = .ok target) : operandsA (ops ++ extra) = .ok target := by
  match ops, h with
  | _ :: _, h => exact h

theorem operandsRR_append {p : Reg × Reg} (h : operandsRR ops = .ok p) : operandsRR (ops ++ extra) = .ok p := by
  match ops, h with
  | _ :: _ :: _, h => exact h

theorem operandsRI_append {p : Reg × Byte} (h : operandsRI ops = .ok p) : operandsRI (ops ++ extra) = .ok p := by
  match ops, h with
  | _ :: _ :: _, h => exact h

theorem operandsII_append {p : Byte × Byte} (h : operandsII ops = .ok p) : operandsII (ops ++ extra) = .ok p := by
  match ops, h with
  | _ :: _ :: _, h => exact h

/-- With the required operands there, added ones leave the fault as it was. -/
theorem Faults.lengthen {fl : CompareFlag} {k : FaultKind} (h : Faults i fl k) (hi : i.Enough) :
    Faults (i.lengthen extra) fl k := by
  have hregs := hi.registerOperands_lengthen extra
  cases h with
  | operands h =>
    rcases h with ⟨-, hshort⟩ | ⟨rfl, -, hbad⟩
    · exact absurd hi hshort
    · exact .operands (.inr ⟨rfl, hi.lengthen extra, by rwa [Instr.RegistersValid, hregs]⟩)
  | flagUnset hgood hcond hflag =>
    obtain ⟨-, hvalid⟩ := hgood
    exact .flagUnset ⟨hi.lengthen extra, by rwa [Instr.RegistersValid, hregs]⟩
      ((conditional_lengthen i extra).trans hcond) hflag

/-- `t'` is `t`, or `t` is past a record at `pc` with `len` operands and `t'` is `t` past one with `len'` (40_step_cycle.md
R105). -/
def SameButLength (pc len len' : Nat) (t t' : State) : Prop :=
  t' = t ∨ (t.pc = pc + 2 + len ∧ t' = t.setPc (pc + 2 + len'))

theorem State.branch_sameButLength (cond : CompareFlag → Bool) (target len len' : Nat) (s : State) :
    SameButLength s.pc len len' (s.branch cond target len) (s.branch cond target len') := by
  unfold State.branch
  split
  · exact .inl rfl
  · exact .inr ⟨rfl, rfl⟩

/-- What an instruction does with added operands differs in the length of the advance alone. -/
theorem Completes.lengthen {f : State → State} (hf : Completes i f) :
    ∃ g, Completes (i.lengthen extra) g ∧
      ∀ s, SameButLength s.pc i.operands.length (i.operands ++ extra).length (f s) (g s) := by
  cases hf with
  | loadImm h => exact ⟨_, .loadImm (operandsRI_append extra h), fun _ => .inr ⟨rfl, rfl⟩⟩
  | storeGpio h hp => exact ⟨_, .storeGpio (operandsRI_append extra h) hp, fun _ => .inr ⟨rfl, rfl⟩⟩
  | storeGpioNoPin h hp => exact ⟨_, .storeGpioNoPin (operandsRI_append extra h) hp, fun _ => .inr ⟨rfl, rfl⟩⟩
  | loadGpio h hp => exact ⟨_, .loadGpio (operandsRI_append extra h) hp, fun _ => .inr ⟨rfl, rfl⟩⟩
  | loadGpioNoPin h hp => exact ⟨_, .loadGpioNoPin (operandsRI_append extra h) hp, fun _ => .inr ⟨rfl, rfl⟩⟩
  | jump h => exact ⟨_, .jump (operandsA_append extra h), fun _ => .inl rfl⟩
  | serialWrite h => exact ⟨_, .serialWrite (operandsR_append extra h), fun _ => .inr ⟨rfl, rfl⟩⟩
  | add h => exact ⟨_, .add (operandsRR_append extra h), fun _ => .inr ⟨rfl, rfl⟩⟩
  | sub h => exact ⟨_, .sub (operandsRR_append extra h), fun _ => .inr ⟨rfl, rfl⟩⟩
  | compare h => exact ⟨_, .compare (operandsRR_append extra h), fun _ => .inr ⟨rfl, rfl⟩⟩
  | jumpEq h => exact ⟨_, .jumpEq (operandsA_append extra h), State.branch_sameButLength _ _ _ _⟩
  | jumpNeq h => exact ⟨_, .jumpNeq (operandsA_append extra h), State.branch_sameButLength _ _ _ _⟩
  | delay h => exact ⟨_, .delay (operandsII_append extra h), fun _ => .inr ⟨rfl, rfl⟩⟩
  | readAdc h => exact ⟨_, .readAdc (operandsR_append extra h), fun _ => .inr ⟨rfl, rfl⟩⟩
  | spiWrite h => exact ⟨_, .spiWrite (operandsR_append extra h), fun _ => .inr ⟨rfl, rfl⟩⟩
  | screenPrint h => exact ⟨_, .screenPrint (operandsR_append extra h), fun _ => .inr ⟨rfl, rfl⟩⟩
  | screenClear => exact ⟨_, .screenClear, fun _ => .inr ⟨rfl, rfl⟩⟩
  | drawPixel h => exact ⟨_, .drawPixel (operandsRR_append extra h), fun _ => .inr ⟨rfl, rfl⟩⟩
  | moveX h => exact ⟨_, .moveX (operandsR_append extra h), fun _ => .inr ⟨rfl, rfl⟩⟩
  | moveY h => exact ⟨_, .moveY (operandsR_append extra h), fun _ => .inr ⟨rfl, rfl⟩⟩
  | jumpGt h => exact ⟨_, .jumpGt (operandsA_append extra h), State.branch_sameButLength _ _ _ _⟩
  | jumpLt h => exact ⟨_, .jumpLt (operandsA_append extra h), State.branch_sameButLength _ _ _ _⟩

/-- An instruction that has its required operands, and the same with more of them. -/
theorem exec_lengthen (hi : i.Enough) (s : State) :
    ∃ t t', exec i s = .next t ∧ exec (i.lengthen extra) s = .next t' ∧
      SameButLength s.pc i.operands.length (i.operands ++ extra).length t t' := by
  rcases faults_or_completes i s.flag with ⟨k, hk⟩ | ⟨-, hflag, f, hf⟩
  · exact ⟨_, _, hk.exec_eq, (hk.lengthen extra hi).exec_eq, .inl (by rw [Instr.lengthen_opcode])⟩
  · obtain ⟨g, hg, hsame⟩ := hf.lengthen extra
    exact ⟨_, _, hf.exec_eq hflag, hg.exec_eq (by rwa [conditional_lengthen]), hsame s⟩

/-- Settles O11, by whether the instruction faults or completes. -/
theorem extraOperandsOnlyLengthen : Obligations.ExtraOperandsOnlyLengthen := by
  intro opc make ops extra s hs hi
  obtain ⟨t, t', ht, ht', hsame⟩ := exec_lengthen extra hi s
  rw [Instr.lengthen_of_selectOpcode extra hs] at ht'
  rw [(selectOpcode_spec hs ops).1] at hsame
  rcases hsame with rfl | ⟨hpc, rfl⟩
  · exact ⟨_, ht, .inl ht'⟩
  · exact ⟨_, ht, .inr ⟨hpc, ht'⟩⟩

end Sys2Proof.Machine
end

section
/-! SUPPORT. The proofs of the statements about the step cycle (40_step_cycle.md): halting, stalling, fetching, what executes
and how the step is reported. -/

namespace Sys2Proof.Machine

open Sys2Proof.Claims

variable {s : State} {i : Instr} {f : State → State}

/-! ### Halting -/

theorem step_of_halted (h : s.running = false ∨ Config.flashCapacity ≤ s.pc) : step s = .next s.halt :=
  step_halts (s.mustHalt_iff.mpr h)

theorem State.halt_of_not_running (h : s.running = false) : s.halt = s := by
  cases s
  cases h
  rfl

theorem State.stepped_of_not_running (h : s.running = false) : s.stepped = s := by
  rw [stepped_eq_of_step (step_of_halted (.inl h)), State.halt_of_not_running h]

/-- A halted machine stays halted (R101). -/
theorem State.runSteps_of_not_running (n : Nat) (h : s.running = false) : s.runSteps n = s := by
  induction n with
  | zero => rfl
  | succ n ih => rw [State.runSteps, State.stepped_of_not_running h, ih]

/-- No host action but a load that fits sets `running` (70_reset_and_hazards.md R294). -/
theorem hostAct_not_running {a : HostAction} (ha : ∀ image g, a = .load image g → Config.flashCapacity < image.length)
    (h : s.running = false) : (hostAct a s).1.running = false := by
  cases a with
  | load image g => simpa only [hostAct, s.load_tooLong g (ha image g rfl)] using h
  | step => simpa only [hostAct, State.stepped_of_not_running h] using h
  | run n => simpa only [hostAct, State.runSteps_of_not_running n h] using h
  | stop => rfl
  | compile | snapshot => exact h

/-- Settles O5. -/
theorem haltedStepChangesNothing : Obligations.HaltedStepChangesNothing := by
  refine ⟨fun _ h => step_of_halted h, fun _ n h => State.runSteps_of_not_running n h, fun a s h hrun => ?_⟩
  by_contra hno
  have hstill := hostAct_not_running (a := a)
    (fun image g he => Nat.lt_of_not_le fun hfits => hno ⟨image, g, he, hfits⟩) h
  simp [hstill] at hrun

/-! ### Stalling -/

theorem step_of_delay_pos (hrun : s.running = true) (hpc : s.pc < Config.flashCapacity) (hdelay : 0 < s.delay.toNat) :
    step s = .next s.stall :=
  step_stalls (s.mustHalt_eq_false_iff.mpr ⟨hrun, hpc⟩) (decide_eq_true hdelay)

/-- Settles O6: a positive count is decremented without wrapping. -/
theorem stalledStepDecrementsDelay : Obligations.StalledStepDecrementsDelay := by
  intro s hrun hpc hdelay
  have hle : 1#16 ≤ s.delay := BitVec.le_def.mpr hdelay
  exact ⟨s.delay - 1#16, BitVec.toNat_sub_of_le hle, step_of_delay_pos hrun hpc hdelay⟩

/-! ### Fetching -/

/-- A whole record at the program counter is what is fetched. -/
theorem State.BytesAtPc.fetch_eq (h : s.BytesAtPc (encode i)) (hlen : i.LenFits) :
    ∃ after, s.fetch = .ok (i, after) := by
  have hfits : (encode i).length ≤ longestRecord := Nat.add_le_add_right hlen 2
  obtain ⟨after, hread⟩ := State.readBytes_prefix hfits h
  exact ⟨after, by rw [State.fetch, hread, decode_encode_append hlen]⟩

/-- A step at a whole record executes its instruction (R107). -/
theorem step_eq_exec (hready : s.Ready) (hlen : i.LenFits) (hbytes : s.BytesAtPc (encode i)) : step s = exec i s := by
  obtain ⟨after, hfetch⟩ := hbytes.fetch_eq hlen
  rw [step_fetches hready, hfetch]

/-- Settles O7. -/
theorem stepRunsDecodedInstruction : Obligations.StepRunsDecodedInstruction := fun _ _ => step_eq_exec

/-- No byte of a whole record is missing. -/
theorem State.BytesAtPc.not_recordCut (h : s.BytesAtPc (encode i)) (hlen : i.LenFits) : ¬ RecordCut s := by
  have hlength : s.memRead (s.pc + 1) = some (BitVec.ofNat 8 i.operands.length) := h 1 (by simp [encode])
  rintro (hnone | ⟨len, hsome, k, hk, hnone⟩)
  · rw [hlength] at hnone
    cases hnone
  · rw [hlength] at hsome
    cases hsome
    rw [lengthByte_toNat hlen] at hk
    have hoperand := h (k + 2) (by simpa [encode] using hk)
    rw [show s.pc + (k + 2) = s.pc + 2 + k by omega, hnone] at hoperand
    cases hoperand

/-- No opcode byte to fetch (60_exceptions.md R242). -/
theorem step_noOpcode (hready : s.Ready) (hm : s.memRead s.pc = none) :
    step s = .next (s.raise .fetchUnwritten none) := by
  have hfetch : s.fetch = .error .noOpcode := by
    simp [State.fetch, longestRecord, State.readBytes, hm, decode]
  rw [step_fetches hready, hfetch]
  rfl

/-- A known opcode whose record is cut off (60_exceptions.md R242). -/
theorem step_truncated {opc : Byte} {make : List Byte → Instr} (hready : s.Ready) (hm : s.memRead s.pc = some opc)
    (hs : selectOpcode opc = some make) (hcut : RecordCut s) :
    step s = .next (s.raise .fetchUnwritten (some opc)) := by
  have hfetch : s.fetch = .error (.truncated opc) := by
    rcases s.fetch_cases with ⟨hm', -⟩ | ⟨opc', hm', hs', -⟩ | ⟨opc', -, hm', -, -, e⟩ | ⟨i, -, hlen, hbytes, -⟩
    · cases hm.symm.trans hm'
    · cases hm.symm.trans hm'
      cases hs.symm.trans hs'
    · cases hm.symm.trans hm'
      exact e
    · exact absurd hcut (hbytes.not_recordCut hlen)
  rw [step_fetches hready, hfetch]
  rfl

/-! ### Executing -/

/-- Good operands and a flag that a conditional jump can read are all that an instruction needs to complete. -/
theorem OperandsGood.exec_eq (hi : OperandsGood i) (hflag : conditional i = true → s.flag ≠ .unset) :
    ∃ f, Completes i f ∧ exec i s = .next (f s) := by
  obtain ⟨f, hf⟩ := hi.completes
  exact ⟨f, hf, hf.exec_eq hflag⟩

/-- Settles O8: a clause of R109 per lemma on halting, stalling, fetching and executing. -/
theorem stepChecksInOrder : Obligations.StepChecksInOrder := by
  refine fun s => ⟨step_of_halted, step_of_delay_pos, fun hready => ⟨step_noOpcode hready,
    fun _ => step_unknownOpcode hready, fun _ _ => step_truncated hready, fun i hlen hbytes => ?_⟩⟩
  rw [step_eq_exec hready hlen hbytes]
  refine ⟨fun hshort => OperandFault.exec_eq (.inl ⟨rfl, hshort⟩) s,
    fun he hbad => OperandFault.exec_eq (.inr ⟨rfl, he, hbad⟩) s,
    fun he hv => exec_flagUnset ⟨he, hv⟩, fun he hv hflag => ?_⟩
  obtain ⟨f, hf, hexec⟩ := OperandsGood.exec_eq ⟨he, hv⟩ hflag
  obtain ⟨hrunning, hfault⟩ := hf.control s
  exact ⟨f s, hexec, hrunning.trans hready.1, hfault⟩

/-! ### The program counter -/

/-- A jump target is the first operand (30_encoding.md R76). -/
theorem operandsA_target {ops : List Byte} {target : Nat} (h : operandsA ops = .ok target) :
    ∃ addr extra, ops = addr :: extra ∧ target = addr.toNat := by
  match ops, h with
  | addr :: extra, rfl => exact ⟨addr, extra, rfl, rfl⟩

theorem flagEq_iff {fl : CompareFlag} : flagEq fl = true ↔ fl = .zero := decide_eq_true_iff

theorem flagNeq_iff {fl : CompareFlag} : flagNeq fl = true ↔ fl = .minus ∨ fl = .plus := decide_eq_true_iff

theorem flagGt_iff {fl : CompareFlag} : flagGt fl = true ↔ fl = .plus := decide_eq_true_iff

theorem flagLt_iff {fl : CompareFlag} : flagLt fl = true ↔ fl = .minus := decide_eq_true_iff

theorem State.branch_of_taken {cond : CompareFlag → Bool} {target len : Nat} (h : cond s.flag = true) :
    s.branch cond target len = s.setPc target := congrArg s.setPc (if_pos h)

theorem State.branch_of_not_taken {cond : CompareFlag → Bool} {target len : Nat} (h : ¬ cond s.flag = true) :
    s.branch cond target len = s.advance len := congrArg s.setPc (if_neg h)

/-- Where control transfers, the first operand is the target (R105). -/
theorem Completes.pc_of_transfers (hf : Completes i f) (h : transfers i s.flag) :
    ∃ addr extra, i.operands = addr :: extra ∧ (f s).pc = addr.toNat := by
  have branch {cond : CompareFlag → Bool} {ops : List Byte} {target : Nat} (e : operandsA ops = .ok target)
      (hc : cond s.flag = true) :
      ∃ addr extra, ops = addr :: extra ∧ (s.branch cond target ops.length).pc = addr.toNat := by
    rw [State.branch_of_taken hc]
    exact operandsA_target e
  cases hf with
  | jump e => exact operandsA_target e
  | jumpEq e => exact branch e (flagEq_iff.mpr h)
  | jumpNeq e => exact branch e (flagNeq_iff.mpr h)
  | jumpGt e => exact branch e (flagGt_iff.mpr h)
  | jumpLt e => exact branch e (flagLt_iff.mpr h)
  | _ => cases h

/-- Where control does not transfer, the next record follows (R105). -/
theorem Completes.pc_of_not_transfers (hf : Completes i f) (h : ¬ transfers i s.flag) :
    (f s).pc = s.pc + 2 + i.operands.length := by
  cases hf with
  | jump => exact absurd trivial h
  | jumpEq => exact congrArg State.pc (State.branch_of_not_taken (mt flagEq_iff.mp h))
  | jumpNeq => exact congrArg State.pc (State.branch_of_not_taken (mt flagNeq_iff.mp h))
  | jumpGt => exact congrArg State.pc (State.branch_of_not_taken (mt flagGt_iff.mp h))
  | jumpLt => exact congrArg State.pc (State.branch_of_not_taken (mt flagLt_iff.mp h))
  | _ => rfl

/-- Settles O10. -/
theorem instructionsCompleteAndAdvance : Obligations.InstructionsCompleteAndAdvance := by
  intro i s he hv hflag
  obtain ⟨f, hf, hexec⟩ := OperandsGood.exec_eq ⟨he, hv⟩ hflag
  obtain ⟨hrunning, hfault⟩ := hf.control s
  exact ⟨f s, hexec, hrunning, hfault, hf.pc_of_transfers, hf.pc_of_not_transfers⟩

/-! ### The report -/

theorem State.stepReport_halted (h : s.mustHalt = true) : s.stepReport = .halted := if_pos h

theorem State.stepReport_stalled (h : s.mustHalt = false) (hs : s.mustStall = true) : s.stepReport = .stalled := by
  simp [State.stepReport, h, hs]

theorem State.stepReport_executed {t : State} (hready : s.Ready) (ht : step s = .next t) (hrun : t.running = true) :
    s.stepReport = .executed := by
  simp [State.stepReport, hready.not_halt, hready.not_stall, stepped_eq_of_step ht, hrun]

theorem State.stepReport_faulted {t : State} {r : FaultRecord} (hready : s.Ready) (ht : step s = .next t)
    (hrun : t.running = false) (hr : t.fault = some r) : s.stepReport = .faulted r := by
  simp [State.stepReport, hready.not_halt, hready.not_stall, stepped_eq_of_step ht, hrun, hr]

/-- Settles O56: a step that fetches either raises a fault or leaves the machine running. -/
theorem stepReportNamesOutcome : Obligations.StepReportNamesOutcome := by
  refine fun s => ⟨fun h => State.stepReport_halted (s.mustHalt_iff.mpr h),
    fun hrun hpc hdelay => State.stepReport_stalled (s.mustHalt_eq_false_iff.mpr ⟨hrun, hpc⟩) (decide_eq_true hdelay),
    fun hready => ?_⟩
  obtain ⟨t, ht, hstep⟩ := step_total s
  refine ⟨t, ht, ?_⟩
  cases hstep with
  | halts h => cases hready.not_halt.symm.trans h
  | stalls _ h => cases hready.not_stall.symm.trans h
  | faults => exact .inr ⟨_, rfl, rfl, State.stepReport_faulted hready ht rfl rfl⟩
  | completes _ _ _ _ hf =>
    have hrun := (hf.control s).1.trans hready.1
    exact .inl ⟨hrun, State.stepReport_executed hready ht hrun⟩

end Sys2Proof.Machine
end

section
/-! SUPPORT. The rules that every opcode shares (its record, too few operands, a register that does not exist), and the
proofs of the statements about registers and pins (41_register_gpio.md). -/

namespace Sys2Proof.Machine

open Sys2Proof.Claims

/-! ### The rules of an opcode -/

section
variable {opc : Byte} {make : List Byte → Instr} (hs : selectOpcode opc = some make)
include hs

/-- The record of an assigned opcode (30_encoding.md R70; 40_step_cycle.md R103, R107). -/
theorem recordRule_of_selectOpcode : RecordRule make opc := by
  have henc (ops : List Byte) : encode (make ops) = opc :: BitVec.ofNat 8 ops.length :: ops := by
    simp [encode, selectOpcode_spec hs ops]
  refine ⟨henc, fun s ops hready hlen hbytes => ?_, fun s hready hm hcut => step_truncated hready hm hs hcut⟩
  have hfits : (make ops).LenFits := (congrArg List.length (selectOpcode_spec hs ops).1).trans_le hlen
  exact step_eq_exec hready hfits ((henc ops).symm ▸ hbytes)

/-- The fault record holds the opcode that selected the instruction (60_exceptions.md R240). -/
theorem OperandFault.exec_eq_of_selectOpcode {ops : List Byte} {k : FaultKind} (h : OperandFault (make ops) k)
    (s : State) : exec (make ops) s = .next (faultedAt s k (some opc)) := by
  obtain ⟨-, hopc⟩ := selectOpcode_spec hs ops
  exact hopc ▸ h.exec_eq s

variable {fmt : Format} (hfmt : ∀ ops, (make ops).format = fmt)
include hfmt

theorem enough_iff_of_selectOpcode (ops : List Byte) : (make ops).Enough ↔ fmt.nreq ≤ ops.length := by
  rw [Instr.Enough, Instr.nreq, hfmt, (selectOpcode_spec hs ops).1]

theorem registersValid_iff_of_selectOpcode (ops : List Byte) :
    (make ops).RegistersValid ↔ ∀ r ∈ ops.take fmt.registers, r.toNat < Config.nregs := by
  rw [Instr.RegistersValid, Instr.registerOperands, hfmt, (selectOpcode_spec hs ops).1]

/-- Too few operands for the format (40_step_cycle.md R104). -/
theorem shortRule_of_selectOpcode : ShortRule make opc fmt.nreq := by
  intro s ops hlen
  have hshort : ¬ (make ops).Enough := mt (enough_iff_of_selectOpcode hs hfmt ops).mp (by omega)
  exact OperandFault.exec_eq_of_selectOpcode hs (.inl ⟨rfl, hshort⟩) s

/-- A format that begins with a register operand (40_step_cycle.md R106). -/
theorem badRegisterRule_of_selectOpcode (hregs : 0 < fmt.registers) : BadRegisterRule make opc fmt.nreq := by
  intro s r rest hlen hr
  have henough := (enough_iff_of_selectOpcode hs hfmt (r :: rest)).mpr hlen
  have hmem : r ∈ (r :: rest).take fmt.registers := List.mem_take_iff_getElem.mpr ⟨0, by simpa using hregs, rfl⟩
  have hbad : ¬ (make (r :: rest)).RegistersValid := fun hv =>
    absurd ((registersValid_iff_of_selectOpcode hs hfmt _).mp hv r hmem) (Nat.not_lt.mpr hr)
  exact OperandFault.exec_eq_of_selectOpcode hs (.inr ⟨rfl, henough, hbad⟩) s

end

/-! ### Registers and pins by operand byte -/

theorem operandsRI_cons_cons {r : Byte} (h : r.toNat < Config.nregs) (v : Byte) (extra : List Byte) :
    operandsRI (r :: v :: extra) = .ok (⟨r.toNat, h⟩, v) := by
  simp [operandsRI, registerOperand_ok h]

/-- The advance past two required operands and more (40_step_cycle.md R105). -/
theorem State.advance_length_cons_cons (s : State) (a b : Byte) (extra : List Byte) :
    s.advance (a :: b :: extra).length = { s with pc := s.pc + 2 + (2 + extra.length) } := by
  rw [List.length_cons, List.length_cons, Nat.add_assoc, Nat.add_comm extra.length]
  rfl

/-- Settles O15. -/
theorem loadImmWritesValue : Obligations.LoadImmWritesValue := by
  refine ⟨recordRule_of_selectOpcode rfl, shortRule_of_selectOpcode (fmt := .ri) rfl fun _ => rfl,
    badRegisterRule_of_selectOpcode (fmt := .ri) rfl (fun _ => rfl) Nat.one_pos, fun s r value extra h => ?_⟩
  rw [(Completes.loadImm (operandsRI_cons_cons h value extra)).exec_eq nofun, State.advance_length_cons_cons]
  rfl

/-- Settles O16, by whether the pin exists. -/
theorem storeGpioWritesBitZero : Obligations.StoreGpioWritesBitZero := by
  refine ⟨recordRule_of_selectOpcode rfl, shortRule_of_selectOpcode (fmt := .ri) rfl fun _ => rfl,
    badRegisterRule_of_selectOpcode (fmt := .ri) rfl (fun _ => rfl) Nat.one_pos,
    fun s r pin extra h => ⟨fun hp => ?_, fun hp => ?_⟩⟩
  · rw [(Completes.storeGpio (operandsRI_cons_cons h pin extra) (pinOperand_some hp)).exec_eq nofun, bit0_eq,
      State.advance_length_cons_cons]
    rfl
  · rw [(Completes.storeGpioNoPin (operandsRI_cons_cons h pin extra) (pinOperand_none hp)).exec_eq nofun,
      State.advance_length_cons_cons]

/-- Settles O17, by whether the pin exists. -/
theorem loadGpioReadsPin : Obligations.LoadGpioReadsPin := by
  refine ⟨recordRule_of_selectOpcode rfl, shortRule_of_selectOpcode (fmt := .ri) rfl fun _ => rfl,
    badRegisterRule_of_selectOpcode (fmt := .ri) rfl (fun _ => rfl) Nat.one_pos,
    fun s r pin extra h => ⟨fun hp => ?_, fun hp => ?_⟩⟩
  · rw [(Completes.loadGpio (operandsRI_cons_cons h pin extra) (pinOperand_some hp)).exec_eq nofun,
      State.advance_length_cons_cons]
    rfl
  · rw [(Completes.loadGpioNoPin (operandsRI_cons_cons h pin extra) (pinOperand_none hp)).exec_eq nofun,
      State.advance_length_cons_cons]

/-! ### A pin between a store and a load -/

/-- A pin that a STORE_GPIO wrote holds the parity of the register it names. -/
theorem exec_storeGpio_pin {s t : State} {r pin : Byte} {xs : List Byte} (hr : r.toNat < 16) (hp : pin.toNat < 40)
    (h : exec (.storeGpio (r :: pin :: xs)) s = .next t) :
    t.gpio[pin.toNat] = decide (s.regs[r.toNat].toNat % 2 = 1) := by
  obtain ⟨-, -, -, hstore⟩ := storeGpioWritesBitZero
  cases h.symm.trans ((hstore s r pin xs hr).1 hp)
  exact Vector.getElem_set_self hp

/-- An instruction that changes a pin is a STORE_GPIO that names it. -/
theorem storeGpio_of_gpio_ne {i : Instr} {s t : State} {p : Pin} (h : exec i s = .next t) (hne : t.gpio[p] ≠ s.gpio[p]) :
    ∃ r pin xs, i = .storeGpio (r :: pin :: xs) ∧ pin.toNat = p.val := by
  by_contra hno
  refine hne (exec_gpio_ne h fun ops hi hpin => hno ?_)
  match ops, hpin with
  | r :: pin :: xs, hpin => exact ⟨r, pin, xs, hi, by simpa using hpin⟩

/-- Settles O18: the load writes the pin's value, which is the parity that the store left there. -/
theorem storeThenLoadGpio : Obligations.StoreThenLoadGpio := by
  refine ⟨fun s t u r q pin xs ys hr hq hp hstore hkeep => ?_, fun i s t p => storeGpio_of_gpio_ne⟩
  obtain ⟨-, -, -, hload⟩ := loadGpioReadsPin
  refine ⟨_, ?_, (hload u q pin ys hq).1 hp⟩
  rw [hkeep, exec_storeGpio_pin hr hp hstore]
  rcases Nat.mod_two_eq_zero_or_one s.regs[r.toNat].toNat with hbit | hbit <;> simp [hbit]

end Sys2Proof.Machine
end

section
/-! SUPPORT. The proofs of the statements about control transfer (42_control_transfer.md): JUMP, and the four conditional
jumps by the branch resolver they share. -/

namespace Sys2Proof.Machine

open Sys2Proof.Claims

/-! ### JUMP -/

theorem exec_jump (s : State) (addr : Byte) (extra : List Byte) :
    exec (.jump (addr :: extra)) s = .next { s with pc := addr.toNat } :=
  (Completes.jump rfl).exec_eq nofun

/-- A state that a step leaves the same, any number of steps leaves the same. -/
theorem State.runSteps_of_step_self {s : State} (h : step s = .next s) (n : Nat) : s.runSteps n = s := by
  induction n with
  | zero => rfl
  | succ n ih => rw [State.runSteps, stepped_eq_of_step h, ih]

/-- A whole JUMP record whose target is its own offset (R142). -/
theorem step_jump_self {s : State} {addr : Byte} {extra : List Byte} (hready : s.Ready) (hlen : extra.length < 255)
    (hpc : s.pc = addr.toNat) (hbytes : s.BytesAtPc (encode (.jump (addr :: extra)))) : step s = .next s := by
  rw [step_eq_exec (i := .jump (addr :: extra)) hready hlen hbytes, exec_jump, ← hpc]

/-- Settles O19: a JUMP to its own offset is a step that leaves the state the same. -/
theorem jumpGoesToTarget : Obligations.JumpGoesToTarget :=
  ⟨recordRule_of_selectOpcode rfl, shortRule_of_selectOpcode (fmt := .a) rfl fun _ => rfl, exec_jump,
    fun _ _ _ n hready hlen hpc hbytes => State.runSteps_of_step_self (step_jump_self hready hlen hpc hbytes) n⟩

/-! ### The conditional jumps -/

/-- The advance past one required operand and more (40_step_cycle.md R105). -/
theorem State.advance_length_cons (s : State) (a : Byte) (extra : List Byte) :
    s.advance (a :: extra).length = { s with pc := s.pc + 2 + (1 + extra.length) } := by
  rw [List.length_cons, Nat.add_comm extra.length]
  rfl

section
variable {opc : Byte} {make : List Byte → Instr} {cond : CompareFlag → Bool} {taken : CompareFlag → Prop}
  (hexec : ∀ ops s, exec (make ops) s = resolveBranch opc cond ops s) (htaken : ∀ {fl}, cond fl = true ↔ taken fl)
include hexec htaken

/-- An instruction that is the branch resolver on `cond` is taken where `cond` holds (R141). -/
theorem branchRule_of_resolveBranch : BranchRule make opc taken := by
  intro s addr extra
  rw [hexec]
  refine ⟨resolveBranch_eq_flagUnset rfl, fun hset h => ?_, fun hset h => ?_⟩ <;> rw [resolveBranch_eq_branch rfl hset]
  · rw [State.branch_of_taken (htaken.mpr h)]
    rfl
  · rw [State.branch_of_not_taken (mt htaken.mp h), State.advance_length_cons]

/-- All that a conditional jump's statement says, from its opcode, its format and its condition. -/
theorem conditionalJump_rules (hs : selectOpcode opc = some make) (hfmt : ∀ ops, (make ops).format = .a) :
    RecordRule make opc ∧ ShortRule make opc 1 ∧ BranchRule make opc taken :=
  ⟨recordRule_of_selectOpcode hs, shortRule_of_selectOpcode hs hfmt, branchRule_of_resolveBranch hexec htaken⟩

end

/-- Settles O20. -/
theorem jumpEqTakenOnZero : Obligations.JumpEqTakenOnZero :=
  conditionalJump_rules (fun _ _ => rfl) flagEq_iff rfl fun _ => rfl

/-- Settles O21. -/
theorem jumpNeqTakenOnNonzero : Obligations.JumpNeqTakenOnNonzero :=
  conditionalJump_rules (fun _ _ => rfl) flagNeq_iff rfl fun _ => rfl

/-- Settles O22. -/
theorem jumpGtTakenOnPlus : Obligations.JumpGtTakenOnPlus :=
  conditionalJump_rules (fun _ _ => rfl) flagGt_iff rfl fun _ => rfl

/-- Settles O23. -/
theorem jumpLtTakenOnMinus : Obligations.JumpLtTakenOnMinus :=
  conditionalJump_rules (fun _ _ => rfl) flagLt_iff rfl fun _ => rfl

end Sys2Proof.Machine
end

section
/-! SUPPORT. The proofs of the statements about the ALU (43_alu.md): the rules of a format of two registers, and the values
that ADD, SUB and COMPARE write. -/

namespace Sys2Proof.Machine

open Sys2Proof.Claims

/-! ### Two register operands -/

section
variable {opc : Byte} {make : List Byte → Instr} (hs : selectOpcode opc = some make)
  (hfmt : ∀ ops, (make ops).format = .rr)
include hs hfmt

/-- Either of two register operands may be the one that does not exist (40_step_cycle.md R106). -/
theorem badRegisterPairRule_of_selectOpcode : BadRegisterPairRule make opc := by
  intro s a b extra hbad
  have henough : (make (a :: b :: extra)).Enough :=
    (enough_iff_of_selectOpcode hs hfmt _).mpr (Nat.le_add_left 2 extra.length)
  have hinvalid : ¬ (make (a :: b :: extra)).RegistersValid := by
    intro hv
    have hregs : ∀ r ∈ [a, b], r.toNat < 16 := (registersValid_iff_of_selectOpcode hs hfmt _).mp hv
    have ha := hregs a (by simp)
    have hb := hregs b (by simp)
    omega
  exact OperandFault.exec_eq_of_selectOpcode hs (.inr ⟨rfl, henough, hinvalid⟩) s

/-- The shape of a statement about an instruction of two registers: the rules of its opcode, then what it says of the
instruction where it completes. -/
theorem registerPair_rules {P : Prop} (hcompletes : P) :
    RecordRule make opc ∧ ShortRule make opc 2 ∧ BadRegisterPairRule make opc ∧ P :=
  ⟨recordRule_of_selectOpcode hs, shortRule_of_selectOpcode hs hfmt, badRegisterPairRule_of_selectOpcode hs hfmt,
    hcompletes⟩

end

theorem operandsRR_cons_cons {a b : Byte} (ha : a.toNat < Config.nregs) (hb : b.toNat < Config.nregs)
    (extra : List Byte) : operandsRR (a :: b :: extra) = .ok (⟨a.toNat, ha⟩, ⟨b.toNat, hb⟩) := by
  simp [operandsRR, registerOperand_ok ha, registerOperand_ok hb]

/-! ### The values -/

/-- The wrapped sum of two natural numbers is their sum mod 256 (R160). -/
theorem wrap8_add_toNat (m n : Nat) : (wrap8 ((m : Int) + (n : Int))).toNat = (m + n) % 256 := by
  have hwrap := wrap8_toNat ((m : Int) + (n : Int))
  omega

/-! ### ADD, SUB and COMPARE -/

/-- Settles O24. -/
theorem addWrapsModulo256 : Obligations.AddWrapsModulo256 := by
  refine registerPair_rules rfl (fun _ => rfl) fun s a b extra ha hb => ⟨_, wrap8_add_toNat _ _, ?_⟩
  rw [(Completes.add (operandsRR_cons_cons ha hb extra)).exec_eq nofun, State.advance_length_cons_cons]
  rfl

/-- Settles O25. -/
theorem subWrapsModulo256 : Obligations.SubWrapsModulo256 := by
  refine registerPair_rules rfl (fun _ => rfl) fun s a b extra ha hb => ⟨_, wrap8_toNat _, ?_⟩
  rw [(Completes.sub (operandsRR_cons_cons ha hb extra)).exec_eq nofun, State.advance_length_cons_cons]
  rfl

/-- Settles O26: the sign of the difference is the order of the two values. -/
theorem compareSetsFlagBySign : Obligations.CompareSetsFlagBySign := by
  refine registerPair_rules rfl (fun _ => rfl) fun s a b extra ha hb => ?_
  rw [(Completes.compare (operandsRR_cons_cons ha hb extra)).exec_eq nofun, State.advance_length_cons_cons,
    compareFlag_eq]
  rfl

end Sys2Proof.Machine
end

section
/-! SUPPORT. The proofs of the statements about peripheral output (44_peripheral_output.md): the rules of a format of
one register, and the event that each emitting instruction appends. -/

namespace Sys2Proof.Machine

open Sys2Proof.Claims

/-! ### One register operand -/

/-- The shape of a statement about an instruction of one register: the rules of its opcode, then what it says of the
instruction where it completes. -/
theorem oneRegister_rules {opc : Byte} {make : List Byte → Instr} (hs : selectOpcode opc = some make)
    (hfmt : ∀ ops, (make ops).format = .r) {P : Prop} (hcompletes : P) :
    RecordRule make opc ∧ ShortRule make opc 1 ∧ BadRegisterRule make opc 1 ∧ P :=
  ⟨recordRule_of_selectOpcode hs, shortRule_of_selectOpcode hs hfmt,
    badRegisterRule_of_selectOpcode hs hfmt Nat.one_pos, hcompletes⟩

theorem operandsR_cons {r : Byte} (h : r.toNat < Config.nregs) (extra : List Byte) :
    operandsR (r :: extra) = .ok ⟨r.toNat, h⟩ :=
  registerOperand_ok h

/-- An instruction that completes with some effect on the state and then advances past one required operand and more. -/
theorem Completes.exec_eq_advance_cons {i : Instr} {effect : State → State} {a : Byte} {extra : List Byte}
    (h : Completes i fun s => (effect s).advance (a :: extra).length) (hi : conditional i = false) (s : State) :
    exec i s = .next { effect s with pc := (effect s).pc + 2 + (1 + extra.length) } := by
  rw [h.exec_eq (by simp [hi]), State.advance_length_cons]

/-! ### Serial and SPI -/

/-- Settles O27. -/
theorem serialWriteAppendsByte : Obligations.SerialWriteAppendsByte :=
  oneRegister_rules rfl (fun _ => rfl) fun s _ extra h =>
    (Completes.serialWrite (operandsR_cons h extra)).exec_eq_advance_cons rfl s

/-- Settles O28. -/
theorem spiWriteAppendsByte : Obligations.SpiWriteAppendsByte :=
  oneRegister_rules rfl (fun _ => rfl) fun s _ extra h =>
    (Completes.spiWrite (operandsR_cons h extra)).exec_eq_advance_cons rfl s

/-! ### The screen -/

/-- Settles O29: the event and ADVANCE both read the cursor from before. -/
theorem screenPrintEmitsThenAdvances : Obligations.ScreenPrintEmitsThenAdvances :=
  oneRegister_rules rfl (fun _ => rfl) fun s _ extra h =>
    (Completes.screenPrint (operandsR_cons h extra)).exec_eq_advance_cons rfl s

/-- Settles O30: no operand is required, so none can fault. -/
theorem screenClearHomesCursor : Obligations.ScreenClearHomesCursor :=
  ⟨recordRule_of_selectOpcode rfl, fun _ _ => Completes.screenClear.exec_eq nofun⟩

/-- Settles O31. -/
theorem drawPixelEmitsRegisterValues : Obligations.DrawPixelEmitsRegisterValues := by
  refine registerPair_rules rfl (fun _ => rfl) fun s a b extra ha hb => ?_
  rw [(Completes.drawPixel (operandsRR_cons_cons ha hb extra)).exec_eq nofun, State.advance_length_cons_cons]
  rfl

/-! ### The cursor -/

/-- Settles O32: the event carries the moved cursor, whose y is the old one. -/
theorem moveXSetsCursorX : Obligations.MoveXSetsCursorX :=
  oneRegister_rules rfl (fun _ => rfl) fun s _ extra h =>
    (Completes.moveX (operandsR_cons h extra)).exec_eq_advance_cons rfl s

/-- Settles O33: the event carries the moved cursor, whose x is the old one. -/
theorem moveYSetsCursorY : Obligations.MoveYSetsCursorY :=
  oneRegister_rules rfl (fun _ => rfl) fun s _ extra h =>
    (Completes.moveY (operandsR_cons h extra)).exec_eq_advance_cons rfl s

end Sys2Proof.Machine
end

section
/-! SUPPORT. The proofs of the statements about DELAY and READ_ADC (45_delay_adc.md): the stalls that a count makes, and the
steps that call the ADC function. -/

namespace Sys2Proof.Machine

open Sys2Proof.Claims

variable {s t : State} {i : Instr} {ops : List Byte}

/-! ### DELAY -/

/-- Settles O34. -/
theorem delayLoadsCount : Obligations.DelayLoadsCount := by
  refine ⟨recordRule_of_selectOpcode rfl, shortRule_of_selectOpcode (fmt := .ii) rfl fun _ => rfl,
    fun s lo hi extra => ⟨_, delayCount_toNat lo hi, ?_⟩⟩
  rw [(Completes.delay rfl).exec_eq nofun, State.advance_length_cons_cons]
  rfl

/-- A running machine with `k` or more stalls pending spends `k` steps on them, and each takes one off the count alone
(R222). -/
theorem State.runSteps_of_le_delay {k : Nat} (hrun : s.running = true) (hpc : s.pc < Config.flashCapacity)
    (hk : k ≤ s.delay.toNat) : ∃ d : BitVec 16, d.toNat = s.delay.toNat - k ∧ s.runSteps k = s.setDelay d := by
  induction k generalizing s with
  | zero => exact ⟨s.delay, rfl, rfl⟩
  | succ k ih =>
    obtain ⟨e, he, hstep⟩ := stalledStepDecrementsDelay s hrun hpc (by omega)
    obtain ⟨d, hd, hrest⟩ := ih (s := s.setDelay e) hrun hpc (show k ≤ e.toNat by omega)
    rw [State.setDelay_delay] at hd
    exact ⟨d, by omega, by rw [State.runSteps, stepped_eq_of_step hstep]; exact hrest⟩

/-- A machine that the halt test stops changes nothing but `running`, in any number of steps (R101). -/
theorem State.runSteps_succ_of_halted (h : s.running = false ∨ Config.flashCapacity ≤ s.pc) (k : Nat) :
    s.runSteps (k + 1) = s.halt := by
  rw [State.runSteps, stepped_eq_of_step (step_of_halted h), State.runSteps_of_not_running k rfl]

/-- A host stop is for ever, as far as steps go (70_reset_and_hazards.md R291, R294). -/
theorem runSteps_hostAct_stop (s : State) (j : Nat) : (hostAct .stop s).1.runSteps j = s.halt :=
  State.runSteps_of_not_running j rfl

/-- Settles O35: after `k` of the stalls the count is `k` less, and after all of them it is zero. -/
theorem delayGatesFetch : Obligations.DelayGatesFetch := by
  intro s lo hi extra
  obtain ⟨-, -, hcompletes⟩ := delayLoadsCount
  obtain ⟨n, hn, hexec⟩ := hcompletes s lo hi extra
  refine ⟨_, hexec, hn, fun hrun hpc => ⟨fun k hk => ?_, _, rfl, ?_⟩, State.runSteps_succ_of_halted⟩
  · obtain ⟨d, hd, hrest⟩ := State.runSteps_of_le_delay hrun hpc hk
    refine ⟨d, hd, hrest, fun j => ?_⟩
    rw [runSteps_hostAct_stop, hrest]
    rfl
  · obtain ⟨d, hd, hrest⟩ := State.runSteps_of_le_delay hrun hpc le_rfl
    rw [hrest]
    exact ⟨⟨hrun, hpc, BitVec.eq_of_toNat_eq (hd.trans (Nat.sub_self _))⟩, rfl⟩

/-! ### READ_ADC -/

/-- Settles O36: the answer is clamped before it is wrapped. -/
theorem readAdcClampsThenTruncates : Obligations.ReadAdcClampsThenTruncates :=
  oneRegister_rules rfl (fun _ => rfl) fun s _ extra h =>
    ⟨_, adcValue s.adcAnswer, wrap8_toNat _,
      (Completes.readAdc (operandsR_cons h extra)).exec_eq_advance_cons rfl s, rfl⟩

/-- A READ_ADC with good operands calls the ADC function once (R225). -/
theorem exec_readAdc_adcDraws (hi : OperandsGood (.readAdc ops)) (h : exec (.readAdc ops) s = .next t) :
    t.adcDraws = s.adcDraws + 1 := by
  rcases exec_cases h with ⟨k, hk, -⟩ | ⟨-, -, f, hf, rfl⟩
  · cases hk with
    | operands hk => exact absurd hi hk.not_good
    | flagUnset _ hcond _ => cases hcond
  · cases hf
    rfl

/-- Only a READ_ADC with good operands calls the ADC function. -/
theorem readAdc_of_adcDraws_ne (h : exec i s = .next t) (hne : t.adcDraws ≠ s.adcDraws) :
    ∃ ops, i = .readAdc ops ∧ OperandsGood i := by
  rcases exec_cases h with ⟨k, -, rfl⟩ | ⟨hgood, -, f, hf, rfl⟩
  · exact absurd rfl hne
  · cases hf with
    | readAdc => exact ⟨_, rfl, hgood⟩
    | _ => exact absurd rfl hne

/-- A step that calls the ADC function executes the whole record at the program counter: no other way a step ends does. -/
theorem exec_of_step_adcDraws_ne (h : step s = .next t) (hne : t.adcDraws ≠ s.adcDraws) :
    s.Ready ∧ ∃ i, i.LenFits ∧ s.BytesAtPc (encode i) ∧ exec i s = .next t := by
  have hdraws {u : State} (hu : step s = .next u) : u.adcDraws ≠ s.adcDraws := by
    cases h.symm.trans hu
    exact hne
  rcases step_start s with hhalt | ⟨hrun, hstall⟩ | hready
  · exact (hdraws (step_halts hhalt) rfl).elim
  · exact (hdraws (step_stalls hrun hstall) rfl).elim
  · rcases s.fetch_cases with ⟨hm, -⟩ | ⟨opc, hm, hs, -⟩ | ⟨opc, make, hm, hs, hcut, -⟩ | ⟨i, -, hlen, hbytes, -⟩
    · exact (hdraws (step_noOpcode hready hm) rfl).elim
    · exact (hdraws (step_unknownOpcode hready hm hs) rfl).elim
    · exact (hdraws (step_truncated hready hm hs hcut) rfl).elim
    · exact ⟨hready, i, hlen, hbytes, step_eq_exec hready hlen hbytes ▸ h⟩

/-- Settles O37: a step that calls the ADC function executes a record, and of the instructions only READ_ADC calls it. -/
theorem onlyReadAdcCallsTheAdc : Obligations.OnlyReadAdcCallsTheAdc := by
  intro s t h
  constructor
  · rintro ⟨hready, ops, ⟨hlen, hgood⟩, hbytes⟩
    rw [step_eq_exec hready hlen hbytes] at h
    exact exec_readAdc_adcDraws hgood h
  · intro hno
    by_contra hne
    obtain ⟨hready, i, hlen, hbytes, hexec⟩ := exec_of_step_adcDraws_ne h hne
    obtain ⟨ops, rfl, hgood⟩ := readAdc_of_adcDraws_ne hexec hne
    exact hno ⟨hready, ops, ⟨hlen, hgood⟩, hbytes⟩

end Sys2Proof.Machine
end

section
/-! SUPPORT. The proofs of the statements about faults (60_exceptions.md): what taking one changes and who can clear it, bytes
that hold no value, and operands that are too few or name no register. -/

namespace Sys2Proof.Machine

open Sys2Proof.Claims

variable {s t : State} {i : Instr}

/-! ### Taking a fault -/

/-- Of the ways a step ends, only a fault changes the record (R240). -/
theorem raise_of_step_fault_ne (h : step s = .next t) (hne : t.fault ≠ s.fault) : ∃ k o, t = s.raise k o := by
  cases step_cases h with
  | halts | stalls => exact absurd rfl hne
  | faults => exact ⟨_, _, rfl⟩
  | completes _ _ _ _ hf => exact absurd (hf.control s).2 hne

/-- A load of an image that fits clears the record (70_reset_and_hazards.md R280, R281). -/
theorem State.load_fault_of_le {image : List Byte} (g : Vector Bool Config.gpioPins)
    (h : image.length ≤ Config.flashCapacity) : (s.load image g).1.fault = none := by
  rw [State.load, if_pos h]
  rfl

/-- Where the machine has stopped, only a load that fits changes the fault record (R240, R252). -/
theorem hostAct_fault {a : HostAction} (ha : ∀ image g, a = .load image g → Config.flashCapacity < image.length)
    (h : s.running = false) : (hostAct a s).1.fault = s.fault := by
  cases a with
  | load image g => rw [hostAct, s.load_tooLong g (ha image g rfl)]
  | step => rw [hostAct, State.stepped_of_not_running h]
  | run n => rw [hostAct, State.runSteps_of_not_running n h]
  | stop | compile | snapshot => rfl

/-- Settles O12: a raised fault has stopped the machine, and a stopped machine leaves the record to the load. -/
theorem faultChangesOnlyRecordAndRunning : Obligations.FaultChangesOnlyRecordAndRunning := by
  constructor
  · intro s t h hne
    obtain ⟨k, o, rfl⟩ := raise_of_step_fault_ne h hne
    exact ⟨⟨k, o, rfl⟩, fun n => State.runSteps_of_not_running n rfl⟩
  · intro a s r hstops hr
    have hstopped : s.running = false := hstops.stopped (by simp [hr])
    by_cases hload : ∃ image g, a = .load image g ∧ image.length ≤ Config.flashCapacity
    · obtain ⟨image, g, rfl, hfits⟩ := hload
      exact .inr ⟨State.load_fault_of_le g hfits, image, g, rfl, hfits⟩
    · have htooLong (image g) (he : a = .load image g) : Config.flashCapacity < image.length :=
        Nat.lt_of_not_le fun hfits => hload ⟨image, g, he, hfits⟩
      exact .inl ((hostAct_fault htooLong hstopped).trans hr)

/-! ### Bytes that hold no value -/

theorem State.memRead_eq_none_of_imageLen_le {o : Nat} (h : s.imageLen ≤ o) : s.memRead o = none :=
  if_neg (Nat.not_lt.mpr h)

/-- A pc at or past the image's end has no opcode byte to fetch (R242). -/
theorem step_pastImage (hready : s.Ready) (h : s.imageLen ≤ s.pc) : step s = .next (s.raise .fetchUnwritten none) :=
  step_noOpcode hready (State.memRead_eq_none_of_imageLen_le h)

/-- A jump target is a byte, so the halt test does not stop the step after the jump (42_control_transfer.md R140). -/
theorem State.Ready.setPc_byte (hready : s.Ready) (addr : Byte) : (s.setPc addr.toNat).Ready := by
  obtain ⟨hrun, -, hdelay⟩ := hready
  exact ⟨hrun, addr.isLt.trans (by decide), hdelay⟩

/-- Settles O13: the target of a JUMP past the image faults where the next step fetches it. -/
theorem unwrittenBytesFaultWhenFetched : Obligations.UnwrittenBytesFaultWhenFetched :=
  ⟨fun _ => step_pastImage, fun _ _ _ => step_truncated, fun s addr extra hready h =>
    ⟨exec_jump s addr extra, step_pastImage (hready.setPc_byte addr) h⟩⟩

/-! ### Ill-formed operands -/

theorem Instr.not_registersValid_iff : ¬ i.RegistersValid ↔ ∃ r ∈ i.registerOperands, 16 ≤ r.toNat := by
  simp [Instr.RegistersValid]

/-- Settles O14: the two faults that operands raise. -/
theorem illFormedOperandsFault : Obligations.IllFormedOperandsFault :=
  ⟨fun _ s hshort => OperandFault.exec_eq (.inl ⟨rfl, Nat.not_le.mpr hshort⟩) s,
    fun _ s he hbad => OperandFault.exec_eq (.inr ⟨rfl, he, Instr.not_registersValid_iff.mpr hbad⟩) s⟩

end Sys2Proof.Machine
end

section
/-! SUPPORT. The proofs of the statements about reset and the host (70_reset_and_hazards.md): what a load leaves, the batches of
steps, the other host actions, and the invariant under all of them. -/

namespace Sys2Proof.Machine

open Sys2Proof.Claims

variable {s : State} {image : List Byte} (g : Vector Bool Config.gpioPins)

/-! ### The load -/

/-- A load of an image that fits (R280). -/
theorem State.load_of_le (s : State) (h : image.length ≤ Config.flashCapacity) :
    s.load image g = (s.loaded image g, .success) := if_pos h

theorem State.loaded_flash_read (s : State) (image : List Byte) (k : Nat) : (s.loaded image g).flash.read k = image[k]? :=
  (Memory.read_ofBytes 0 image k).trans (if_pos k.zero_le)

/-- The image's length cuts nothing off what program memory holds after a load. -/
theorem State.loaded_memRead (s : State) (image : List Byte) (k : Nat) : (s.loaded image g).memRead k = image[k]? := by
  by_cases h : k < image.length
  · exact (if_pos h).trans (s.loaded_flash_read g image k)
  · exact (if_neg h).trans (List.getElem?_eq_none (Nat.not_lt.mp h)).symm

/-- A loaded machine is about to fetch its first instruction (R281). -/
theorem State.loaded_ready (s : State) (image : List Byte) : (s.loaded image g).Ready := ⟨rfl, Nat.zero_lt_succ _, rfl⟩

/-- The register file that a load and a compile leave (R281, R292). -/
theorem clearedRegs_getElem (r : Reg) : (Vector.replicate Config.nregs (0#8 : Byte))[r] = 0#8 :=
  Vector.getElem_replicate r.isLt

/-- Settles O51: the fields are the ones the load writes, and an empty image has no opcode byte at pc 0. -/
theorem loadEstablishesFreshState : Obligations.LoadEstablishesFreshState := by
  intro image g s h
  have hact : hostAct (.load image g) s = (s.loaded image g, .load .success) := by rw [hostAct, s.load_of_le g h]
  refine ⟨_, hact, rfl, clearedRegs_getElem, rfl, rfl, rfl, rfl, rfl, rfl, rfl, rfl, rfl, rfl, rfl, rfl,
    s.loaded_memRead g image, s.loaded_flash_read g image, fun hempty => step_pastImage (s.loaded_ready g image) ?_⟩
  simp [State.loaded, hempty]

/-- Settles O52. -/
theorem oversizedLoadRejected : Obligations.OversizedLoadRejected := by
  intro image g s h
  rw [hostAct, s.load_tooLong g h]

/-- Settles O53: a load of the empty image writes every field but the three of the hypotheses. -/
theorem resetIsEmptyLoad : Obligations.ResetIsEmptyLoad := by
  intro s hmode hram hdraws
  rw [s.load_of_le _ (Nat.zero_le _), State.loaded, hmode, hram, hdraws]
  rfl

/-! ### Batches of steps -/

theorem State.runSteps_add (m n : Nat) (s : State) : s.runSteps (m + n) = (s.runSteps m).runSteps n := by
  induction m generalizing s with
  | zero => rw [Nat.zero_add, State.runSteps]
  | succ m ih => rw [Nat.succ_add, State.runSteps, State.runSteps, ih]

/-- Settles O55: batches compose, and a halted machine's batch changes nothing. -/
theorem runIsRepeatedStep : Obligations.RunIsRepeatedStep := by
  refine ⟨State.runSteps_add, fun s t h => ⟨stepped_eq_of_step h, stepped_eq_of_step h⟩, fun m n s hhalted => ?_⟩
  rw [State.runSteps_add, State.runSteps_of_not_running n hhalted]

/-! ### Stop, compile clear and snapshot -/

/-- Settles O54. -/
theorem stopCompileSnapshotEffects : Obligations.StopCompileSnapshotEffects :=
  ⟨fun _ => rfl, runSteps_hostAct_stop, fun _ => ⟨_, clearedRegs_getElem, rfl⟩, fun _ => rfl⟩

/-! ### The invariant of a launch -/

/-- A load leaves program memory holding exactly the image. -/
theorem State.loaded_imageExact (s : State) (h : image.length ≤ Config.flashCapacity) : (s.loaded image g).ImageExact where
  canonical := s.loaded_flash_wf image g
  fits := h
  exact o := by
    rw [s.loaded_flash_read g image o, Option.isSome_iff_ne_none, ne_eq, List.getElem?_eq_none_iff, Nat.not_le]
    rfl

/-- A load that fits establishes the invariant, of which it takes over the part about RAM alone. -/
theorem State.loaded_consistent (hram : s.RamInRange) (h : image.length ≤ Config.flashCapacity) :
    (s.loaded image g).Consistent where
  image := s.loaded_imageExact g h
  ram := ⟨hram.canonical, hram.fits⟩
  fault := .of_fault_none rfl
  buffers := ⟨rfl, rfl⟩
  pc := Nat.zero_le _

theorem State.Consistent.load (hs : s.Consistent) (image : List Byte) : (s.load image g).1.Consistent := by
  by_cases h : image.length ≤ Config.flashCapacity
  · rw [s.load_of_le g h]
    exact State.loaded_consistent g hs.ram h
  · rw [s.load_tooLong g (Nat.lt_of_not_le h)]
    exact hs

theorem State.Consistent.stepped (hs : s.Consistent) : s.stepped.Consistent := by
  obtain ⟨t, ht, -⟩ := step_total s
  rw [stepped_eq_of_step ht]
  exact stepKeepsConsistent s t hs ht

theorem State.Consistent.runSteps (hs : s.Consistent) (n : Nat) : (s.runSteps n).Consistent := by
  induction n generalizing s with
  | zero => exact hs
  | succ n ih => exact ih hs.stepped

/-- A stop clears `running`, which a fault record allows (R291). -/
theorem State.Consistent.stop (hs : s.Consistent) : s.stop.Consistent :=
  hs.of_sameMemory (sameMemory_refl s) hs.fault.halt (hs.buffers.of_sameOutputs (sameOutputs_refl s)) hs.pc

/-- The invariant says nothing of the registers (R292). -/
theorem State.Consistent.compileClear (hs : s.Consistent) : s.compileClear.Consistent :=
  hs.of_sameMemory (sameMemory_refl s) { hs.fault with } (hs.buffers.of_sameOutputs (sameOutputs_refl s)) hs.pc

/-- Settles O49, by the host's actions. -/
theorem hostActionsKeepConsistent : Obligations.HostActionsKeepConsistent := by
  intro a s hs
  cases a with
  | load image g => exact hs.load g image
  | step => exact hs.stepped
  | run n => exact hs.runSteps n
  | stop => exact hs.stop
  | compile => exact hs.compileClear
  | snapshot => exact hs

/-- Settles O50: reset is what a load of the empty image leaves, from a state without RAM. -/
theorem resetIsConsistent : Obligations.ResetIsConsistent := by
  have hram : State.reset.RamInRange := ⟨State.reset_memory_wf.2, nofun⟩
  have hreset : State.reset.loaded [] Config.gpioAtLoad = State.reset := rfl
  rw [Obligations.ResetIsConsistent, ← hreset]
  exact State.loaded_consistent Config.gpioAtLoad hram (Nat.zero_le _)

end Sys2Proof.Machine
end
